-- ==== Sys2Proof/Config.lean ====
section
/-! DEFINITION. The numeric implementation parameters of RGB565PK (00_scope.md rule R7; REG_BUS and REG_BASE are arguments of
Machine/Bus.lean, the host's open parameters of Machine/HostContract.lean) and the free values: constants
with no body, of which nothing can be proved (93_implementation_defined.md U2, U4). -/

namespace Sys2Proof.Config

/-- The default of `DIM_BITS`, bits of WIDTH, HEIGHT, X and Y (R7, D5). `DIM_BITS` itself is the argument `d` of the state, the
operations, the step words, the decoder, `Machine.execAt`, `Machine.stepAt` and the pins. Where the argument is not written
(`State`, `Instr`, `exec`, `step`) it is this default (log entry 1). -/
abbrev dimBits : Nat := 16

/-- `CNT_BITS = 2 * DIM_BITS + 2`, bits of COUNT, and `REG_BITS = CNT_BITS`, the width of the register port (R7). -/
abbrev cntBits (d : Nat) : Nat := 2 * d + 2

/-- `LINE_LITERALS`, the literals of one text line of the host's emitter (R7, R177). -/
abbrev lineLiterals : Nat := 16

/-- Bytes of a step word's payload: it holds the write data of a register transaction (REG_BITS bits) or the answer
of a pixel source (33 bits). The step word is the model's own. DESIGN CHOICE, safe (log entry 3). -/
abbrev payloadBytes (d : Nat) : Nat := (max (cntBits d) 33 + 7) / 8

/-- Bits of a step word's payload (log entry 3). -/
abbrev payloadBits (d : Nat) : Nat := 8 * payloadBytes d

/-- Bits of a step word: payload, class and code (log entry 3). -/
abbrev stepWordBits (d : Nat) : Nat := payloadBits d + 4 + 4

/-- The value X has after RESET number `n`, for a block of `d` dimension bits: the spec gives none (R37, R38, U2).
A free value, safe (log entry 8). -/
opaque unknownX (d n : Nat) : BitVec d

/-- The value Y has after RESET number `n` (R37, R38, U2). A free value, safe (log entry 8). -/
opaque unknownY (d n : Nat) : BitVec d

/-- The value lane `k` of HOLD has after RESET number `n` (R37, R38, U2). A free value, safe (log entry 8). -/
opaque unknownLane (k n : Nat) : BitVec 8

/-- Channel `c` (0 red, 1 green, 2 blue, 3 alpha) of what the pixel source returns for a coordinate outside its image,
at draw number `n` (U4, R230: any value). A free value, safe (log entry 9). -/
opaque unknownChannel (c n : Nat) : BitVec 8

end Sys2Proof.Config
end

