-- ==== Sys2Proof/Word.lean ====
section
/-! DEFINITION. The data types every layer uses: bytes, coordinates, register data, step words, samples
(30_encoding.md rules R80 and R85). -/

namespace Sys2Proof

/-- One byte of the output stream, one 8-bit channel. -/
abbrev Byte := BitVec 8

/-- A width, a height or a coordinate: `DIM_BITS` bits (R7). -/
abbrev Dim (d : Nat := Config.dimBits) := BitVec d

/-- The data of the register port: `REG_BITS = CNT_BITS` bits (R7, R85). -/
abbrev RegData (d : Nat := Config.dimBits) := BitVec (Config.cntBits d)

/-- One entry of the schedule, as bits: payload, class, code from the most significant end.
The model's own (log entry 3). -/
abbrev StepWord (d : Nat := Config.dimBits) := BitVec (Config.stepWordBits d)

/-- Format `SAMPLE` (R80): four unsigned 8-bit channels. A channel above 255 cannot be written (R90, R118, U1). -/
structure Sample where
  r : Byte
  g : Byte
  b : Byte
  a : Byte
  deriving DecidableEq, Repr, Inhabited

end Sys2Proof
end

