-- ==== Sys2Proof/Machine/Operands.lean ====
section
/-! DEFINITION. The operand forms of a register transaction's write data (10_state.md rule R27, 30_encoding.md rules R85
and R86) and of the step words that carry samples. All for any number `d` of dimension bits. -/

namespace Sys2Proof.Machine

variable {d : Nat}

/-- Is this the index of a register the host may never write: STATUS, COUNT, ERR or the unmapped index 7 (R150)? -/
def readOnlyIdx (idx : BitVec 3) : Bool :=
  idx == 1 || idx == 5 || idx == 6 || idx == 7

/-- Is a reserved bit of `wdata` for this register 1 (R150): bits REG_BITS-1:1 for CTRL and MODE, bits
REG_BITS-1:DIM_BITS for WIDTH and HEIGHT? The other registers have no data a write could get right. -/
def reservedSet (idx : BitVec 3) (wdata : BitVec (Config.cntBits d)) : Bool :=
  if idx == 0 || idx == 2 then wdata >>> 1 != 0
  else if idx == 3 || idx == 4 then wdata >>> d != 0
  else false

/-- `wdata[0]`: START in a write of CTRL, ALPHA in a write of MODE (R151, R152). -/
def bitField (wdata : BitVec (Config.cntBits d)) : BitVec 1 :=
  wdata.setWidth 1

/-- `wdata[DIM_BITS-1:0]`: the dimension in a write of WIDTH or HEIGHT (R153, R154). -/
def dimField (wdata : BitVec (Config.cntBits d)) : BitVec d :=
  wdata.setWidth d

/-- A one-bit operand as a truth value. -/
def bitSet (v : BitVec 1) : Bool :=
  v == 1

/-- A sample as the 32 bits `a b g r` (red lowest): how a step word carries it. The spec defines no packed sample word
(R80); this one is the model's own (log entry 3). -/
def sampleBits (p : Sample) : BitVec 32 :=
  (p.a ++ p.b ++ p.g ++ p.r : BitVec (8 + 8 + 8 + 8))

/-- The sample that 32 bits carry (log entry 3). -/
def sampleOf (v : BitVec 32) : Sample where
  r := v.extractLsb' 0 8
  g := v.extractLsb' 8 8
  b := v.extractLsb' 16 8
  a := v.extractLsb' 24 8

end Sys2Proof.Machine
end

