-- ==== Sys2Proof/Syntax.lean ====
section
/-! DEFINITION. The operations of the block as syntax: one constructor for each row of spec/opcode_table.json
(00_scope.md rule R13), and the names under which the decoder refuses a word. -/

namespace Sys2Proof

/-- One row of spec/opcode_table.json each, in the table's order; the five rows of ILL.WR are five constructors. `d` is
DIM_BITS, the default where it is not written (R7). -/
inductive Instr (d : Nat := Config.dimBits) where
  /-- QR5, quantize red (R111). -/
  | qr5 (r : Byte)
  /-- QG6, quantize green (R112). -/
  | qg6 (g : Byte)
  /-- QB5, quantize blue (R113). -/
  | qb5 (b : Byte)
  /-- PK565, pack three fields (R114). -/
  | pk565 (r5 : BitVec 5) (g6 : BitVec 6) (b5 : BitVec 5)
  /-- SPLIT, split a packed pixel into two bytes (R115). -/
  | split (px : BitVec 16)
  /-- PACK.RGB, the record of one pixel in no-alpha mode (R116). -/
  | packRgb (p : Sample)
  /-- PACK.RGBA, the record of one pixel in alpha mode (R117). -/
  | packRgba (p : Sample)
  /-- START, begin a scan (R131): the register write CTRL with data 1. -/
  | start
  /-- FETCH (R132): the pixel source answers. `none`: from the image it holds. `some p`: with `p` at this very moment,
  whatever its image held (R68, R226, U7). -/
  | fetch (answer : Option Sample)
  /-- NEXT, the successor in scan order (R133), as a function of X, Y and WIDTH. -/
  | next
  /-- EMIT (R134): the sink accepts. -/
  | emit
  /-- WR.CTRL, command write (R151); the operand is `wdata[0]`. -/
  | wrCtrl (start : BitVec 1)
  /-- WR.MODE (R152); the operand is `wdata[0]`. -/
  | wrMode (alpha : BitVec 1)
  /-- WR.WIDTH (R153); the operand is `wdata[DIM_BITS-1:0]`. -/
  | wrWidth (w : Dim d)
  /-- WR.HEIGHT (R154); the operand is `wdata[DIM_BITS-1:0]`. -/
  | wrHeight (h : Dim d)
  /-- RD.CTRL (R155). -/
  | rdCtrl
  /-- RD.STATUS (R156). -/
  | rdStatus
  /-- RD.MODE (R157). -/
  | rdMode
  /-- RD.WIDTH (R158). -/
  | rdWidth
  /-- RD.HEIGHT (R159). -/
  | rdHeight
  /-- RD.COUNT (R160). -/
  | rdCount
  /-- RD.ERR (R161). -/
  | rdErr
  /-- ILL.RD, read of index 7 (R163). -/
  | illRd
  /-- ILL.WR: STATUS is read-only (R162); any data. -/
  | illWrStatus (wdata : RegData d)
  /-- ILL.WR: COUNT is read-only (R162); any data. -/
  | illWrCount (wdata : RegData d)
  /-- ILL.WR: ERR is read-only (R162); any data. -/
  | illWrErr (wdata : RegData d)
  /-- ILL.WR: index 7 is unmapped (R162); any data. -/
  | illWrUnmapped (wdata : RegData d)
  /-- ILL.WR: a reserved data bit set in a write to CTRL, MODE, WIDTH or HEIGHT (R162). -/
  | illWrReserved (idx : BitVec 3) (wdata : RegData d)
  /-- RESET (R220), the `rst` input. -/
  | reset
  /-- (idle), a turn in which the block takes no step (R135). -/
  | idle
  /-- (unreachable), the selector value `0 1 -` (R87). -/
  | unreachable
  deriving DecidableEq, Repr

/-- Why the decoder refuses a step word. All are about the model's own step words (log entry 3), none is about a register
transaction: the table of R85 is total. -/
inductive DecodeError where
  /-- The class nibble is none of REGT, SEL, PIN, FUNC. -/
  | unknownClass
  /-- A payload bit that the operation does not use is 1. -/
  | strayBits
  /-- Class SEL with bit 3 of the code set: a selector has three bits. -/
  | badSelector
  /-- Class PIN with a code other than 1: only `rst = 1` is a step. -/
  | badPin
  /-- Class FUNC with a code above 7. -/
  | badFunction
  deriving DecidableEq, Repr

end Sys2Proof
end

