-- ==== Sys2Proof/WellFormed.lean ====
section
/-! DEFINITION. Which terms of `Instr` are operations with an encoding of their own (30_encoding.md rules R85 and R89). -/

namespace Sys2Proof

/-- Well-formed operations. Two constructors have operands that not every value fits: the write of CTRL with START = 1 is the
row START (R85: the words are the same, log entry 13), and ILL.WR by a reserved bit needs one of the four writable
registers and a reserved bit that is 1 (R162). -/
def WellFormed {d : Nat} : Instr d → Bool
  | .wrCtrl s => s == 0
  | .illWrReserved idx wdata => !Machine.readOnlyIdx idx && Machine.reservedSet idx wdata
  | .qr5 _ => true
  | .qg6 _ => true
  | .qb5 _ => true
  | .pk565 _ _ _ => true
  | .split _ => true
  | .packRgb _ => true
  | .packRgba _ => true
  | .start => true
  | .fetch _ => true
  | .next => true
  | .emit => true
  | .wrMode _ => true
  | .wrWidth _ => true
  | .wrHeight _ => true
  | .rdCtrl => true
  | .rdStatus => true
  | .rdMode => true
  | .rdWidth => true
  | .rdHeight => true
  | .rdCount => true
  | .rdErr => true
  | .illRd => true
  | .illWrStatus _ => true
  | .illWrCount _ => true
  | .illWrErr _ => true
  | .illWrUnmapped _ => true
  | .reset => true
  | .idle => true
  | .unreachable => true

end Sys2Proof
end

