-- ==== Sys2Proof/Decode.lean ====
section
/-! DEFINITION. From a step word to the operation it stands for, and back. The register transaction table (30_encoding.md
rule R85) and the selector table (rule R87) are the spec's; the class nibble that says which table a word belongs
to is the model's own (log entry 3). -/

namespace Sys2Proof

variable {d : Nat}

/-- A register transaction `(we, idx, wdata)` to its operation: the decode order of 42_register_access.md rule R150 and the
table of R85, total. A write of CTRL with START = 1 is the row START. The data of a read is ignored. -/
def decodeRegt (we : Bool) (idx : BitVec 3) (wdata : RegData d) : Instr d :=
  if we = false then
    match idx.toNat with
    | 0 => .rdCtrl
    | 1 => .rdStatus
    | 2 => .rdMode
    | 3 => .rdWidth
    | 4 => .rdHeight
    | 5 => .rdCount
    | 6 => .rdErr
    | _ => .illRd
  else if Machine.readOnlyIdx idx then
    match idx.toNat with
    | 1 => .illWrStatus wdata
    | 5 => .illWrCount wdata
    | 6 => .illWrErr wdata
    | _ => .illWrUnmapped wdata
  else if Machine.reservedSet idx wdata then .illWrReserved idx wdata
  else
    match idx.toNat with
    | 0 => if Machine.bitSet (Machine.bitField wdata) then .start else .wrCtrl 0
    | 2 => .wrMode (Machine.bitField wdata)
    | 3 => .wrWidth (Machine.dimField wdata)
    | _ => .wrHeight (Machine.dimField wdata)

/-- The pixel source's answer that the payload of a FETCH word carries: bit 32 says whether a sample is given
(log entries 3 and 10). -/
def decodeAnswer (payload : BitVec (Config.payloadBits d)) : Except DecodeError (Option Sample) :=
  if payload >>> 33 != 0 then .error .strayBits
  else if payload.getLsbD 32 then .ok (some (Machine.sampleOf (payload.setWidth 32)))
  else if payload.setWidth 32 != 0 then .error .strayBits
  else .ok none

/-- An operation whose operand is the low `n` bits of the payload; the bits above must be 0. -/
def decodeField (n : Nat) (payload : BitVec (Config.payloadBits d)) (f : BitVec n → Instr d) :
    Except DecodeError (Instr d) :=
  if payload >>> n != 0 then .error .strayBits else .ok (f (payload.setWidth n))

/-- The selector table of R87: the block step a value of `SEL = {PHASE, PEND, ALPHA}` selects. FETCH here is FETCH with the
pixel source's image answering. -/
def decodeSel (sel : BitVec 3) : Instr d :=
  match sel.toNat with
  | 0 | 1 => .idle
  | 2 | 3 => .unreachable
  | 4 | 5 => .fetch none
  | _ => .emit

/-- A word of class SEL: which agent's turn it is, named by the selector value of the step it offers. -/
def decodeSelWord (code : BitVec 4) (payload : BitVec (Config.payloadBits d)) : Except DecodeError (Instr d) :=
  if code.getLsbD 3 then .error .badSelector
  else
    match decodeSel (code.setWidth 3) with
    | .fetch _ => (decodeAnswer payload).map .fetch
    | i => decodeField 0 payload fun _ => i

/-- A word of class FUNC: a combinational function on its own. -/
def decodeFunc (code : BitVec 4) (payload : BitVec (Config.payloadBits d)) : Except DecodeError (Instr d) :=
  match code.toNat with
  | 0 => decodeField 8 payload .qr5
  | 1 => decodeField 8 payload .qg6
  | 2 => decodeField 8 payload .qb5
  | 3 => decodeField 16 payload fun v => .pk565 (v.extractLsb' 11 5) (v.extractLsb' 5 6) (v.extractLsb' 0 5)
  | 4 => decodeField 16 payload .split
  | 5 => decodeField 32 payload fun v => .packRgb (Machine.sampleOf v)
  | 6 => decodeField 32 payload fun v => .packRgba (Machine.sampleOf v)
  | 7 => decodeField 0 payload fun _ => .next
  | _ => .error .badFunction

/-- Bits 3:0 of a step word: `op = {we, idx}` of a register transaction, a selector value, or a function number. -/
def StepWord.code (w : StepWord d) : BitVec 4 := w.extractLsb' 0 4

/-- Bits 7:4 of a step word: 0 REGT, 1 SEL, 2 PIN, 3 FUNC (log entry 3). -/
def StepWord.cls (w : StepWord d) : BitVec 4 := w.extractLsb' 4 4

/-- The bits above: write data, a sample, or the operands of a function. -/
def StepWord.payload (w : StepWord d) : BitVec (Config.payloadBits d) := w.extractLsb' 8 (Config.payloadBits d)

/-- A step word to its operation. Total; a word that is none is rejected by name. -/
def decode (w : StepWord d) : Except DecodeError (Instr d) :=
  match w.cls.toNat with
  | 0 =>
    if w.payload >>> Config.cntBits d != 0 then .error .strayBits
    else .ok (decodeRegt (w.code.getLsbD 3) (w.code.setWidth 3) (w.payload.setWidth (Config.cntBits d)))
  | 1 => decodeSelWord w.code w.payload
  | 2 => if w.code = 1 then decodeField 0 w.payload fun _ => .reset else .error .badPin
  | 3 => decodeFunc w.code w.payload
  | _ => .error .unknownClass

/-- A step word from its three fields. -/
def stepWord (cls code : BitVec 4) (payload : BitVec (Config.payloadBits d)) : StepWord d :=
  (payload ++ cls ++ code : BitVec (Config.payloadBits d + 4 + 4))

/-- The word of a register transaction: class 0, code `op = {we, idx}`, payload `wdata` (R85). -/
def regtWord (op : BitVec 4) (wdata : RegData d) : StepWord d :=
  stepWord 0 op (wdata.setWidth (Config.payloadBits d))

/-- The payload of a FETCH word (log entry 10). -/
def answerBits : Option Sample → BitVec (Config.payloadBits d)
  | none => 0
  | some p => ((1#1 ++ Machine.sampleBits p : BitVec (1 + 32))).setWidth (Config.payloadBits d)

/-- The word of an operation, from the tables of R85 and R87 and log entry 3. The data of a read is 0, the ALPHA bit of a
selector code is 0 (it is a don't-care of the row). -/
def encode : Instr d → StepWord d
  | .qr5 r => stepWord 3 0 (r.setWidth _)
  | .qg6 g => stepWord 3 1 (g.setWidth _)
  | .qb5 b => stepWord 3 2 (b.setWidth _)
  | .pk565 r5 g6 b5 => stepWord 3 3 ((r5 ++ g6 ++ b5 : BitVec (5 + 6 + 5)).setWidth _)
  | .split px => stepWord 3 4 (px.setWidth _)
  | .packRgb p => stepWord 3 5 ((Machine.sampleBits p).setWidth _)
  | .packRgba p => stepWord 3 6 ((Machine.sampleBits p).setWidth _)
  | .next => stepWord 3 7 0
  | .start => regtWord 0x8 1
  | .wrCtrl s => regtWord 0x8 (s.setWidth _)
  | .wrMode a => regtWord 0xA (a.setWidth _)
  | .wrWidth w => regtWord 0xB (w.setWidth _)
  | .wrHeight h => regtWord 0xC (h.setWidth _)
  | .rdCtrl => regtWord 0x0 0
  | .rdStatus => regtWord 0x1 0
  | .rdMode => regtWord 0x2 0
  | .rdWidth => regtWord 0x3 0
  | .rdHeight => regtWord 0x4 0
  | .rdCount => regtWord 0x5 0
  | .rdErr => regtWord 0x6 0
  | .illRd => regtWord 0x7 0
  | .illWrStatus wdata => regtWord 0x9 wdata
  | .illWrCount wdata => regtWord 0xD wdata
  | .illWrErr wdata => regtWord 0xE wdata
  | .illWrUnmapped wdata => regtWord 0xF wdata
  | .illWrReserved idx wdata => regtWord (1#1 ++ idx : BitVec (1 + 3)) wdata
  | .fetch ans => stepWord 1 0x4 (answerBits ans)
  | .emit => stepWord 1 0x6 0
  | .idle => stepWord 1 0x0 0
  | .unreachable => stepWord 1 0x2 0
  | .reset => stepWord 2 1 0

/-- The operation of a word whose bits are numbered as spec/opcode_table.json numbers them, every bit from `nbits` on being 0.
The table's numbers do not say which format a row has; a word of the table is read as a register transaction, the
only format that is a word on a port of the block (R85, R87; log entry 21). -/
def decodeTableWord (nbits w : Nat) : Option Instr :=
  (decode (BitVec.ofNat (Config.stepWordBits Config.dimBits) (w % 2 ^ nbits))).toOption

end Sys2Proof
end

