-- ==== Sys2Proof/Machine/State.lean ====
section
/-! DEFINITION. The state of the block (10_state.md rule R20), what the agents around it hold (00_scope.md rules R11, R12;
20_memory.md rule R50), the reasons a step can stop, and the state after RESET (10_state.md rule R37). -/

namespace Sys2Proof.Machine

/-- `PHASE` (R20): idle, or a scan running. -/
inductive Phase where
  | idle
  | scan
  deriving DecidableEq, Repr

/-- `HOLD` (R20, R23): three byte lanes, high byte, low byte, alpha byte of the current record. -/
structure Hold where
  b0 : Byte
  b1 : Byte
  b2 : Byte
  deriving DecidableEq, Repr

/-- The eleven state elements of the block (R20), for `d` = DIM_BITS. -/
structure Block (d : Nat) where
  /-- `ALPHA`: false = 2 bytes per pixel, true = 3 (R30). -/
  alpha : Bool
  /-- `WIDTH` (R31). -/
  width : BitVec d
  /-- `HEIGHT` (R32). -/
  height : BitVec d
  /-- `PHASE`, seen by the host as BUSY (R25). -/
  phase : Phase
  /-- `DONE` (R25). -/
  done : Bool
  /-- `X`, column of the next pixel to fetch (R24). -/
  x : BitVec d
  /-- `Y`, row of the next pixel to fetch (R24). -/
  y : BitVec d
  /-- `NB`, bytes of the current record not yet sent (R23). -/
  nb : BitVec 2
  /-- `HOLD` (R23). -/
  hold : Hold
  /-- `COUNT`, bytes sent since the last accepted START (R33). -/
  count : BitVec (Config.cntBits d)
  /-- `ERR`, sticky: bit 0 E_ILL, bit 1 E_BUSY, bit 2 E_DIM (R34). -/
  err : BitVec 3
  deriving DecidableEq, Repr

/-- A byte memory: (address, byte) pairs, addresses strictly rising; an unlisted address has not been written. -/
abbrev Memory := List Host.Cell

/-- The pixel space (R51): the rows of the image, top row first, each left to right. -/
abbrev Image := List (List Sample)

/-- What a combinational function returned when it was run on its own (log entry 14). -/
inductive Result (d : Nat := Config.dimBits) where
  /-- QR5. -/
  | r5 (v : BitVec 5)
  /-- QG6. -/
  | g6 (v : BitVec 6)
  /-- QB5. -/
  | b5 (v : BitVec 5)
  /-- PK565. -/
  | rgb565 (v : BitVec 16)
  /-- SPLIT. -/
  | bytes (high low : Byte)
  /-- PACK.RGB and PACK.RGBA. -/
  | record (bs : List Byte)
  /-- NEXT. -/
  | position (x y : Dim d)
  deriving DecidableEq, Repr

/-- What the agents around the block see of its steps: the event log of R12, in the terms of the trace notation R91. -/
inductive Event (d : Nat := Config.dimBits) where
  /-- RESET happened (R220). -/
  | reset
  /-- A START was accepted (R131). -/
  | started
  /-- A register read returned `data` (`RD <REG> -> <value>`). -/
  | returned (idx : BitVec 3) (data : RegData d)
  /-- The pixel source answered the request for `(x, y)` with `p` (`FETCH (x, y) = p`). -/
  | fetched (x y : Dim d) (p : Sample)
  /-- The sink accepted `v`; `last` is the `out_last` marker (`EMIT v`, `EMIT v L`). -/
  | sent (v : Byte) (last : Bool)
  /-- A combinational function was evaluated on its own (log entry 14). -/
  | computed (r : Result d)
  deriving DecidableEq, Repr

/-- The whole machine for `d` = DIM_BITS: the block, and what the agents around it hold. DIM_BITS is no field: it is a parameter
(R12), the default where it is not written. -/
structure State (d : Nat := Config.dimBits) where
  /-- The block's eleven elements (R20). -/
  block : Block d
  /-- `PIX`, the image the pixel source holds (R51); no step of the block writes it. -/
  pix : Image
  /-- `OUT`, the bytes the sink stored, by offset (R52); no step of the block reads it. -/
  out : Memory
  /-- The event log (R12), oldest event first. -/
  log : List (Event d)
  /-- The schedule: which agent acts next and how, first turn first (R12; log entry 2). -/
  pending : List (StepWord d)
  /-- The model's own: the number of free values drawn so far (log entry 19). -/
  free : Nat
  deriving DecidableEq, Repr

/-- Reasons the machine stops with a fault. -/
inductive Fault where
  /-- Raised by EMIT in a state with NB > BPP, where `HOLD.b<BPP - NB>` names no lane (R134). R40 item 2 excludes such
  states; safe: the model stops where no rule gives a byte. Log entry 7. -/
  | laneOutOfRange
  deriving DecidableEq, Repr

/-- Reasons a step has no meaning. -/
inductive Refusal where
  /-- Raised by exec's arm of an operation that has no meaning yet; safe. -/
  | notModelled (mnemonic : String)
  /-- Raised by the step when the next step word is none of the model's own encoding (log entry 3); safe. -/
  | undecodable (e : DecodeError)
  /-- Raised by (unreachable), and by EMIT in a state with PHASE = IDLE and NB ≠ 0: the selector value `0 1 -`, which has
  no behaviour ("refuse", U13; R87, R89); safe. Log entry 6. -/
  | unreachableSelector
  deriving DecidableEq, Repr

/-- The block after RESET (R37, R220): `n` numbers the values of X, Y and HOLD, which the spec gives none
(free values, log entry 8). -/
def Block.afterReset (d n : Nat) : Block d where
  alpha := false
  width := 0
  height := 0
  phase := .idle
  done := false
  x := Config.unknownX d n
  y := Config.unknownY d n
  nb := 0
  hold := ⟨Config.unknownLane 0 n, Config.unknownLane 1 n, Config.unknownLane 2 n⟩
  count := 0
  err := 0

/-- The machine of `d` dimension bits right after RESET: no image loaded, no byte sent, no event, no turn scheduled
(log entries 9, 11, 12, 2), one free value drawn (log entry 19). -/
def State.resetAt (d : Nat) : State d where
  block := Block.afterReset d 0
  pix := []
  out := []
  log := []
  pending := []
  free := 1

/-- The machine right after RESET at the default DIM_BITS. -/
def State.reset : State :=
  State.resetAt Config.dimBits

end Sys2Proof.Machine
end

