-- ==== Sys2Proof/Machine/Ops.lean ====
section
/-! DEFINITION. The named operations over the state: the byte memory behind the output port, the pixel space, the updates of
one field of the machine, and `raise`, the one way a fault is taken (60_exceptions.md rule R193). -/

namespace Sys2Proof.Machine

variable {d : Nat}

/-- The byte at an offset of the output space; `none` where nothing has been written (R52). -/
def Memory.read (m : Memory) (a : Nat) : Option Byte :=
  match m with
  | [] => none
  | (k, v) :: rest => if k = a then some v else Memory.read rest a

/-- Write one byte, keeping the addresses strictly rising (R52). -/
def Memory.write (m : Memory) (a : Nat) (v : Byte) : Memory :=
  match m with
  | [] => [(a, v)]
  | (k, u) :: rest =>
    if a < k then (a, v) :: (k, u) :: rest
    else if a = k then (a, v) :: rest
    else (k, u) :: Memory.write rest a v

/-- The canonical form of a byte memory: addresses strictly rising. An unlisted address reads as unwritten, which no entry
does, so equal memories are equal lists. -/
abbrev Memory.wf (m : Memory) : Prop :=
  m.Pairwise fun p q => p.1 < q.1

/-- `PixRead(x, y)` on an image (R51): `none` outside it (U4). -/
def Image.read (img : Image) (x y : Nat) : Option Sample :=
  (img[y]?).bind fun row => row[x]?

/-- An image of `w` columns and `h` rows: `h` rows, every one of `w` samples (R51). -/
abbrev Image.hasSize (img : Image) (w h : Nat) : Prop :=
  img.length = h ∧ ∀ row ∈ img, row.length = w

/-- The three fault causes (R191). -/
inductive Cause where
  /-- Illegal register transaction. -/
  | ill
  /-- Configuration write or START while a scan runs. -/
  | busy
  /-- START with a zero dimension. -/
  | dim
  deriving DecidableEq, Repr

/-- The cause code: the index of the fault's bit in ERR (R191). -/
def causeCode : Cause → Nat
  | .ill => 0
  | .busy => 1
  | .dim => 2

/-- `raise E_x` (R193): set the sticky bit of the cause, change nothing else. There is no vector, no saved state and no
return (R195). -/
def raise (e : Cause) (b : Block d) : Block d :=
  { b with err := b.err ||| (1#3 <<< causeCode e) }

/-- Is the fault bit of this cause set (R34)? -/
def raised (e : Cause) (b : Block d) : Bool :=
  b.err.getLsbD (causeCode e)

/-- Replace the block. -/
def State.setBlock (b : Block d) (s : State d) : State d :=
  { s with block := b }

/-- Append an event to the log (R12). -/
def State.record (e : Event d) (s : State d) : State d :=
  { s with log := s.log ++ [e] }

/-- Replace the schedule. -/
def State.setPending (p : List (StepWord d)) (s : State d) : State d :=
  { s with pending := p }

/-- Note that one more free value has been drawn (log entry 19). -/
def State.draw (s : State d) : State d :=
  { s with free := s.free + 1 }

/-- `OutByte(v, last)` (R52): the sink accepts `v` and stores it at offset COUNT. COUNT itself moves with the block. -/
def State.outByte (v : Byte) (last : Bool) (s : State d) : State d :=
  { s with out := Memory.write s.out s.block.count.toNat v, log := s.log ++ [.sent v last] }

/-- `PixRead(X, Y)` as a FETCH sees it (R51, R68): the answer given at this moment if the turn gives one, else the image's
sample, else any value (U4): a free value. The second component notes a free value drawn. -/
def pixAnswer (answer : Option Sample) (s : State d) : Sample × State d :=
  match answer with
  | some p => (p, s)
  | none =>
    match Image.read s.pix s.block.x.toNat s.block.y.toNat with
    | some p => (p, s)
    | none =>
      (⟨Config.unknownChannel 0 s.free, Config.unknownChannel 1 s.free, Config.unknownChannel 2 s.free,
        Config.unknownChannel 3 s.free⟩, s.draw)

end Sys2Proof.Machine
end

