-- ==== Sys2Proof/Machine/Flags.lean ====
section
/-! DEFINITION. The flags and the guards: BUSY, DONE and the register views of them (10_state.md rules R25, R29, R34), the
step selector (30_encoding.md rule R87) and when FETCH and EMIT are enabled (41_scan_serializer.md rule R135). -/

namespace Sys2Proof.Machine

variable {d : Nat}

/-- `BUSY = PHASE` (R25). -/
def busy (b : Block d) : Bool :=
  b.phase == .scan

/-- `BPP = 2 + ALPHA`, bytes per pixel (R7, R23). -/
def bpp (alpha : Bool) : Nat :=
  if alpha then 3 else 2

/-- `PEND = (NB != 0)` (R87), which is also `out_valid` (R62). -/
def pend (b : Block d) : Bool :=
  b.nb != 0

/-- `SEL = {PHASE, PEND, ALPHA}` (R87). -/
def sel (b : Block d) : BitVec 3 :=
  (BitVec.ofBool (busy b) ++ BitVec.ofBool (pend b) ++ BitVec.ofBool b.alpha : BitVec (1 + 1 + 1))

/-- FETCH is enabled: PHASE = SCAN and NB = 0 (R135); this is `pix_ready` (R61). -/
def fetchEnabled (b : Block d) : Bool :=
  busy b && !pend b

/-- EMIT is enabled: PHASE = SCAN and NB ≠ 0 (R135). -/
def emitEnabled (b : Block d) : Bool :=
  busy b && pend b

/-- Is the next byte the last of the scan: NB = 1 and Y = HEIGHT (R134)? -/
def lastByte (b : Block d) : Bool :=
  b.nb == 1 && b.y == b.height

/-- The data of RD.STATUS: `{0..0, DONE, BUSY}` (R29, R156). -/
def statusWord (b : Block d) : BitVec (Config.cntBits d) :=
  (BitVec.ofBool b.done ++ BitVec.ofBool (busy b) : BitVec (1 + 1)).setWidth _

/-- The data of RD.MODE: `{0..0, ALPHA}` (R30, R157). -/
def modeWord (b : Block d) : BitVec (Config.cntBits d) :=
  (BitVec.ofBool b.alpha).setWidth _

/-- The data of RD.ERR: `{0..0, E_DIM, E_BUSY, E_ILL}` (R34, R161). -/
def errWord (b : Block d) : BitVec (Config.cntBits d) :=
  b.err.setWidth _

/-- The data a read of a register returns: the map of R27, and 0 for the unmapped index (R163). -/
def regData (idx : BitVec 3) (b : Block d) : BitVec (Config.cntBits d) :=
  match idx.toNat with
  | 1 => statusWord b
  | 2 => modeWord b
  | 3 => b.width.setWidth _
  | 4 => b.height.setWidth _
  | 5 => b.count
  | 6 => errWord b
  | _ => 0

end Sys2Proof.Machine
end

