-- ==== Sys2Proof/Machine/PixelPack.lean ====
section
/-! DEFINITION. The pixel packer (40_pixel_pack.md): quantizers, packer, splitter, record builders, and the meanings of their
rows. A function run on its own changes no element of the block (R110); what it returns goes to the event log (log entry 14). -/

namespace Sys2Proof.Machine

variable {d : Nat}

/-- QR5: `(r >> 3) & 0x1F` (R111). -/
def qr5 (r : Byte) : BitVec 5 :=
  ((r >>> 3) &&& 0x1F#8).setWidth 5

/-- QG6: `(g >> 2) & 0x3F` (R112). -/
def qg6 (g : Byte) : BitVec 6 :=
  ((g >>> 2) &&& 0x3F#8).setWidth 6

/-- QB5: `(b >> 3) & 0x1F` (R113). -/
def qb5 (b : Byte) : BitVec 5 :=
  ((b >>> 3) &&& 0x1F#8).setWidth 5

/-- PK565: `(r5 << 11) | (g6 << 5) | b5` (R114). -/
def pk565 (r5 : BitVec 5) (g6 : BitVec 6) (b5 : BitVec 5) : BitVec 16 :=
  (r5.setWidth 16 <<< 11) ||| (g6.setWidth 16 <<< 5) ||| b5.setWidth 16

/-- SPLIT, the high byte: `(rgb565 >> 8) & 0xFF` (R115). -/
def highByte (px : BitVec 16) : Byte :=
  ((px >>> 8) &&& 0xFF#16).setWidth 8

/-- SPLIT, the low byte: `rgb565 & 0xFF` (R115). -/
def lowByte (px : BitVec 16) : Byte :=
  (px &&& 0xFF#16).setWidth 8

/-- The packed pixel of a sample (R81); alpha is not read. -/
def pix16 (p : Sample) : BitVec 16 :=
  pk565 (qr5 p.r) (qg6 p.g) (qb5 p.b)

/-- PACK.RGB: `[high_byte, low_byte]` (R116). -/
def packRgb (p : Sample) : List Byte :=
  [highByte (pix16 p), lowByte (pix16 p)]

/-- PACK.RGBA: `[high_byte, low_byte, alpha_byte]`, alpha unchanged (R117). -/
def packRgba (p : Sample) : List Byte :=
  [highByte (pix16 p), lowByte (pix16 p), p.a]

/-- `PACK(A, s)` (R10): the record FETCH builds, chosen by ALPHA alone (R87). -/
def pack (alpha : Bool) (p : Sample) : List Byte :=
  if alpha then packRgba p else packRgb p

/-- QR5 on its own (R111). -/
def execQr5 (r : Byte) (s : State d) : Host.Outcome (State d) Fault Refusal :=
  .next (s.record (.computed (.r5 (qr5 r))))

/-- QG6 on its own (R112). -/
def execQg6 (g : Byte) (s : State d) : Host.Outcome (State d) Fault Refusal :=
  .next (s.record (.computed (.g6 (qg6 g))))

/-- QB5 on its own (R113). -/
def execQb5 (b : Byte) (s : State d) : Host.Outcome (State d) Fault Refusal :=
  .next (s.record (.computed (.b5 (qb5 b))))

/-- PK565 on its own (R114). -/
def execPk565 (r5 : BitVec 5) (g6 : BitVec 6) (b5 : BitVec 5) (s : State d) : Host.Outcome (State d) Fault Refusal :=
  .next (s.record (.computed (.rgb565 (pk565 r5 g6 b5))))

/-- SPLIT on its own (R115). -/
def execSplit (px : BitVec 16) (s : State d) : Host.Outcome (State d) Fault Refusal :=
  .next (s.record (.computed (.bytes (highByte px) (lowByte px))))

/-- PACK.RGB on its own (R116). -/
def execPackRgb (p : Sample) (s : State d) : Host.Outcome (State d) Fault Refusal :=
  .next (s.record (.computed (.record (packRgb p))))

/-- PACK.RGBA on its own (R117). -/
def execPackRgba (p : Sample) (s : State d) : Host.Outcome (State d) Fault Refusal :=
  .next (s.record (.computed (.record (packRgba p))))

end Sys2Proof.Machine
end

