-- ==== Sys2Proof/Machine/Serializer.lean ====
section
/-! DEFINITION. The scan serializer (41_scan_serializer.md): START, FETCH, NEXT, EMIT, what each does to the block and what it
means for the machine. -/

namespace Sys2Proof.Machine

variable {d : Nat}

/-- A START is accepted: PHASE = IDLE and both dimensions non-zero (R131). -/
def startAccepted (b : Block d) : Bool :=
  !busy b && b.width != 0 && b.height != 0

/-- START on the block (R131). -/
def startBlock (b : Block d) : Block d :=
  if busy b then raise .busy b
  else if b.width = 0 ∨ b.height = 0 then raise .dim b
  else { b with phase := .scan, done := false, x := 0, y := 0, nb := 0, count := 0 }

/-- START: the block, and the note in the log that a scan began. -/
def State.start (s : State d) : State d :=
  if startAccepted s.block then (s.record .started).setBlock (startBlock s.block)
  else s.setBlock (startBlock s.block)

/-- `NEXT(X, Y)` (R133): one column to the right, or the first column of the row below. The comparison is exact. -/
def nextPos (w x y : BitVec d) : BitVec d × BitVec d :=
  if x.toNat + 1 < w.toNat then (x + 1, y) else (0, y + 1)

/-- `HOLD` loaded with a record (R132): lane b2 is written only by a record of three bytes. -/
def loadHold (rec : List Byte) (h : Hold) : Hold :=
  match rec with
  | [hi, lo] => { h with b0 := hi, b1 := lo }
  | [hi, lo, al] => ⟨hi, lo, al⟩
  | _ => h

/-- FETCH on the block, given the sample the pixel source answers (R132). -/
def fetchBlock (p : Sample) (b : Block d) : Block d :=
  { b with
    hold := loadHold (pack b.alpha p) b.hold
    nb := BitVec.ofNat 2 (bpp b.alpha)
    x := (nextPos b.width b.x b.y).1
    y := (nextPos b.width b.x b.y).2 }

/-- Lane `k` of HOLD (R23, R134); there are three. -/
def lane (h : Hold) (k : Nat) : Option Byte :=
  match k with
  | 0 => some h.b0
  | 1 => some h.b1
  | 2 => some h.b2
  | _ => none

/-- The byte the next EMIT sends: lane `BPP - NB`, where that names a lane (R134). -/
def nextByte (b : Block d) : Option Byte :=
  if b.nb.toNat ≤ bpp b.alpha then lane b.hold (bpp b.alpha - b.nb.toNat) else none

/-- EMIT on the block (R134): COUNT and NB move; the last byte ends the scan. -/
def emitBlock (b : Block d) : Block d :=
  if lastByte b then { b with count := b.count + 1, nb := b.nb - 1, phase := .idle, done := true }
  else { b with count := b.count + 1, nb := b.nb - 1 }

/-- Row START (R131). -/
def execStart (s : State d) : Host.Outcome (State d) Fault Refusal :=
  .next s.start

/-- Row FETCH (R132): the pixel source answers. Where no request stands (`pix_ready = 0`) the answer is ignored (R61). -/
def execFetch (answer : Option Sample) (s : State d) : Host.Outcome (State d) Fault Refusal :=
  if fetchEnabled s.block then
    .next (((pixAnswer answer s).2.record (.fetched s.block.x s.block.y (pixAnswer answer s).1)).setBlock
      (fetchBlock (pixAnswer answer s).1 s.block))
  else .next s

/-- Row NEXT on its own (R133): the position it returns, no element written (R20: FETCH writes X and Y; log entry 14). Where X
and Y have not been written since RESET no rule of the spec reads them (R38); the turn on its own then returns the successor
of their free values. DESIGN CHOICE, safe (log entry 14). -/
def execNext (s : State d) : Host.Outcome (State d) Fault Refusal :=
  .next (s.record (.computed (.position (nextPos s.block.width s.block.x s.block.y).1
    (nextPos s.block.width s.block.x s.block.y).2)))

/-- Row EMIT (R134): the sink accepts. Where no byte is offered (`out_valid = 0`) nothing happens (R62). -/
def execEmit (s : State d) : Host.Outcome (State d) Fault Refusal :=
  if pend s.block = false then .next s
  else if busy s.block = false then .refused .unreachableSelector
  else
    match nextByte s.block with
    | none => .fault .laneOutOfRange
    | some v => .next ((s.outByte v (lastByte s.block)).setBlock (emitBlock s.block))

/-- Row (idle) (R135): no agent acts in this turn, so the block takes no step (R141, R199). -/
def execIdle (s : State d) : Host.Outcome (State d) Fault Refusal :=
  .next s

/-- Row (unreachable) (R87): the selector value `0 1 -` has no behaviour; refused (U13, log entry 6). -/
def execUnreachable (_s : State d) : Host.Outcome (State d) Fault Refusal :=
  .refused .unreachableSelector

end Sys2Proof.Machine
end

