-- ==== Sys2Proof/Machine/RegisterAccess.lean ====
section
/-! DEFINITION. Register transactions (42_register_access.md): what each write and read does to the block, the whole
transaction of rule R150, and the meanings of the rows. -/

namespace Sys2Proof.Machine

variable {d : Nat}

/-- A configuration write: dropped with E_BUSY while a scan runs, else performed (R152 to R154). -/
def configWrite (f : Block d → Block d) (b : Block d) : Block d :=
  if busy b then raise .busy b else f b

/-- WR.MODE on the block (R152). -/
def writeMode (a : BitVec 1) (b : Block d) : Block d :=
  configWrite (fun b => { b with alpha := bitSet a }) b

/-- WR.WIDTH on the block (R153). -/
def writeWidth (w : BitVec d) (b : Block d) : Block d :=
  configWrite (fun b => { b with width := w }) b

/-- WR.HEIGHT on the block (R154). -/
def writeHeight (h : BitVec d) (b : Block d) : Block d :=
  configWrite (fun b => { b with height := h }) b

/-- WR.CTRL on the block (R151): START if bit 0 is 1, else nothing. -/
def writeCtrl (a : BitVec 1) (b : Block d) : Block d :=
  if bitSet a then startBlock b else b

/-- `RegTxn(we, idx, wdata)` of R150 on the block, word for word, with the data a read returns. -/
def regTxn (we : Bool) (idx : BitVec 3) (wdata : BitVec (Config.cntBits d)) (b : Block d) :
    Block d × Option (BitVec (Config.cntBits d)) :=
  if we = false ∧ idx = 7 then (raise .ill b, some 0)
  else if we = false then (b, some (regData idx b))
  else if readOnlyIdx idx then (raise .ill b, none)
  else if reservedSet idx wdata then (raise .ill b, none)
  else if idx = 0 then (writeCtrl (bitField wdata) b, none)
  else if idx = 2 then (writeMode (bitField wdata) b, none)
  else if idx = 3 then (writeWidth (dimField wdata) b, none)
  else (writeHeight (dimField wdata) b, none)

/-- A read of a mapped register: the data goes to the host, nothing of the block changes (R164). -/
def State.readReg (idx : BitVec 3) (s : State d) : State d :=
  s.record (.returned idx (regData idx s.block))

/-- An illegal write: E_ILL and nothing else (R162). -/
def State.illegalWrite (s : State d) : State d :=
  s.setBlock (raise .ill s.block)

/-- Row WR.CTRL (R151). -/
def execWrCtrl (a : BitVec 1) (s : State d) : Host.Outcome (State d) Fault Refusal :=
  if bitSet a then .next s.start else .next s

/-- Row WR.MODE (R152). -/
def execWrMode (a : BitVec 1) (s : State d) : Host.Outcome (State d) Fault Refusal :=
  .next (s.setBlock (writeMode a s.block))

/-- Row WR.WIDTH (R153). -/
def execWrWidth (w : Dim d) (s : State d) : Host.Outcome (State d) Fault Refusal :=
  .next (s.setBlock (writeWidth w s.block))

/-- Row WR.HEIGHT (R154). -/
def execWrHeight (h : Dim d) (s : State d) : Host.Outcome (State d) Fault Refusal :=
  .next (s.setBlock (writeHeight h s.block))

/-- Row RD.CTRL (R155). -/
def execRdCtrl (s : State d) : Host.Outcome (State d) Fault Refusal := .next (s.readReg 0)

/-- Row RD.STATUS (R156). -/
def execRdStatus (s : State d) : Host.Outcome (State d) Fault Refusal := .next (s.readReg 1)

/-- Row RD.MODE (R157). -/
def execRdMode (s : State d) : Host.Outcome (State d) Fault Refusal := .next (s.readReg 2)

/-- Row RD.WIDTH (R158). -/
def execRdWidth (s : State d) : Host.Outcome (State d) Fault Refusal := .next (s.readReg 3)

/-- Row RD.HEIGHT (R159). -/
def execRdHeight (s : State d) : Host.Outcome (State d) Fault Refusal := .next (s.readReg 4)

/-- Row RD.COUNT (R160). -/
def execRdCount (s : State d) : Host.Outcome (State d) Fault Refusal := .next (s.readReg 5)

/-- Row RD.ERR (R161). -/
def execRdErr (s : State d) : Host.Outcome (State d) Fault Refusal := .next (s.readReg 6)

/-- Row ILL.RD (R163): E_ILL, and 0 is returned. -/
def execIllRd (s : State d) : Host.Outcome (State d) Fault Refusal :=
  .next ((s.record (.returned 7 0)).setBlock (raise .ill s.block))

/-- Row ILL.WR, STATUS is read-only (R162). -/
def execIllWrStatus (_wdata : RegData d) (s : State d) : Host.Outcome (State d) Fault Refusal := .next s.illegalWrite

/-- Row ILL.WR, COUNT is read-only (R162). -/
def execIllWrCount (_wdata : RegData d) (s : State d) : Host.Outcome (State d) Fault Refusal := .next s.illegalWrite

/-- Row ILL.WR, ERR is read-only (R162): the data does not clear it. -/
def execIllWrErr (_wdata : RegData d) (s : State d) : Host.Outcome (State d) Fault Refusal := .next s.illegalWrite

/-- Row ILL.WR, index 7 is unmapped (R162). -/
def execIllWrUnmapped (_wdata : RegData d) (s : State d) : Host.Outcome (State d) Fault Refusal := .next s.illegalWrite

/-- Row ILL.WR, a reserved data bit is 1 (R162): the whole write is dropped, before the busy and dimension checks (R194). -/
def execIllWrReserved (_idx : BitVec 3) (_wdata : RegData d) (s : State d) : Host.Outcome (State d) Fault Refusal :=
  .next s.illegalWrite

end Sys2Proof.Machine
end

