-- ==== Sys2Proof/Machine/Reset.lean ====
section
/-! DEFINITION. RESET (70_reset_and_hazards.md rules R220 and R221). -/

namespace Sys2Proof.Machine

variable {d : Nat}

/-- Row RESET (R220): every element at its reset value; X, Y and HOLD get fresh free values. What the sink has accepted stays
accepted (R221); the image, the log and the schedule are the other agents' (log entry 20). -/
def execReset (s : State d) : Host.Outcome (State d) Fault Refusal :=
  .next (((s.record .reset).draw).setBlock (Block.afterReset d s.free))

end Sys2Proof.Machine
end

