-- ==== Sys2Proof/Machine/Dispatch.lean ====
section
/-! DEFINITION. One arm per operation. -/

namespace Sys2Proof.Machine

def exec (i : Instr) (s : State) : Host.Outcome State Fault Refusal :=
  match i with
  | .qr5 r => Sys2Proof.Machine.execQr5 r s
  | .qg6 g => Sys2Proof.Machine.execQg6 g s
  | .qb5 b => Sys2Proof.Machine.execQb5 b s
  | .pk565 r5 g6 b5 => Sys2Proof.Machine.execPk565 r5 g6 b5 s
  | .split px => Sys2Proof.Machine.execSplit px s
  | .packRgb p => Sys2Proof.Machine.execPackRgb p s
  | .packRgba p => Sys2Proof.Machine.execPackRgba p s
  | .start => Sys2Proof.Machine.execStart s
  | .fetch answer => Sys2Proof.Machine.execFetch answer s
  | .next => Sys2Proof.Machine.execNext s
  | .emit => Sys2Proof.Machine.execEmit s
  | .wrCtrl a => Sys2Proof.Machine.execWrCtrl a s
  | .wrMode a => Sys2Proof.Machine.execWrMode a s
  | .wrWidth w => Sys2Proof.Machine.execWrWidth w s
  | .wrHeight h => Sys2Proof.Machine.execWrHeight h s
  | .rdCtrl => Sys2Proof.Machine.execRdCtrl s
  | .rdStatus => Sys2Proof.Machine.execRdStatus s
  | .rdMode => Sys2Proof.Machine.execRdMode s
  | .rdWidth => Sys2Proof.Machine.execRdWidth s
  | .rdHeight => Sys2Proof.Machine.execRdHeight s
  | .rdCount => Sys2Proof.Machine.execRdCount s
  | .rdErr => Sys2Proof.Machine.execRdErr s
  | .illRd => Sys2Proof.Machine.execIllRd s
  | .illWrStatus wdata => Sys2Proof.Machine.execIllWrStatus wdata s
  | .illWrCount wdata => Sys2Proof.Machine.execIllWrCount wdata s
  | .illWrErr wdata => Sys2Proof.Machine.execIllWrErr wdata s
  | .illWrUnmapped wdata => Sys2Proof.Machine.execIllWrUnmapped wdata s
  | .illWrReserved idx wdata => Sys2Proof.Machine.execIllWrReserved idx wdata s
  | .reset => Sys2Proof.Machine.execReset s
  | .idle => Sys2Proof.Machine.execIdle s
  | .unreachable => Sys2Proof.Machine.execUnreachable s

end Sys2Proof.Machine
end

