-- ==== Sys2Proof/Machine/Step.lean ====
section
/-! DEFINITION. One step of the machine: the next turn of the schedule (00_scope.md rules R8, R11, R12). -/

namespace Sys2Proof.Machine

/-- The next turn: decode the first word of the schedule and run it in the state with that word taken off. With no turn
scheduled no agent acts and nothing changes (R141, R199; log entry 4). A word that is none is refused by name. -/
def step (s : State) : Host.Outcome State Fault Refusal :=
  match s.pending with
  | [] => .next s
  | w :: rest =>
    match decode w with
    | .ok i => exec i (s.setPending rest)
    | .error e => .refused (.undecodable e)

/-- The state whose very next step runs the operation of a table word: the word is put first in the schedule (log entry 23). -/
def State.withFetchWord (s : State) (nbits w : Nat) : State :=
  s.setPending (BitVec.ofNat (Config.stepWordBits Config.dimBits) (w % 2 ^ nbits) :: s.pending)

end Sys2Proof.Machine
end

