-- ==== Sys2Proof/Machine/AtWidth.lean ====
section
/-! DEFINITION. The machine for any DIM_BITS (00_scope.md rules R7 and R12: DIM_BITS is a parameter of the step relation). `exec`
and `step` are `execAt` and `stepAt` at the default 16 (Laws/Exec.lean): the meanings they call are the same. -/

namespace Sys2Proof.Machine

variable {d : Nat}

/-- The effect of one operation on the machine of `d` dimension bits. -/
def execAt (i : Instr d) (s : State d) : Host.Outcome (State d) Fault Refusal :=
  match i with
  | .qr5 r => execQr5 r s
  | .qg6 g => execQg6 g s
  | .qb5 b => execQb5 b s
  | .pk565 r5 g6 b5 => execPk565 r5 g6 b5 s
  | .split px => execSplit px s
  | .packRgb p => execPackRgb p s
  | .packRgba p => execPackRgba p s
  | .start => execStart s
  | .fetch answer => execFetch answer s
  | .next => execNext s
  | .emit => execEmit s
  | .wrCtrl a => execWrCtrl a s
  | .wrMode a => execWrMode a s
  | .wrWidth w => execWrWidth w s
  | .wrHeight h => execWrHeight h s
  | .rdCtrl => execRdCtrl s
  | .rdStatus => execRdStatus s
  | .rdMode => execRdMode s
  | .rdWidth => execRdWidth s
  | .rdHeight => execRdHeight s
  | .rdCount => execRdCount s
  | .rdErr => execRdErr s
  | .illRd => execIllRd s
  | .illWrStatus wdata => execIllWrStatus wdata s
  | .illWrCount wdata => execIllWrCount wdata s
  | .illWrErr wdata => execIllWrErr wdata s
  | .illWrUnmapped wdata => execIllWrUnmapped wdata s
  | .illWrReserved idx wdata => execIllWrReserved idx wdata s
  | .reset => execReset s
  | .idle => execIdle s
  | .unreachable => execUnreachable s

/-- The next turn of the machine of `d` dimension bits. -/
def stepAt (s : State d) : Host.Outcome (State d) Fault Refusal :=
  match s.pending with
  | [] => .next s
  | w :: rest =>
    match decode w with
    | .ok i => execAt i (s.setPending rest)
    | .error e => .refused (.undecodable e)

/-- Operations one after the other, as long as each answers a next state. -/
def runAll : List (Instr d) → State d → Host.Outcome (State d) Fault Refusal
  | [], s => .next s
  | i :: is, s =>
    match execAt i s with
    | .next t => runAll is t
    | .fault f => .fault f
    | .refused r => .refused r

end Sys2Proof.Machine
end

