-- ==== Sys2Proof/Machine/Scan.lean ====
section
/-! DEFINITION. A scan as a whole: the closed form of its stream (41_scan_serializer.md rule R136), the block run by itself with
willing partners (R65, R233), what the event log says of the scan under way, and the pseudo-operations (30_encoding.md rule R92). -/

namespace Sys2Proof.Machine

variable {d : Nat}

/-- `Serialize(img, WIDTH, HEIGHT, ALPHA)` (R136): the records in scan order. -/
def serialize (img : Nat → Nat → Sample) (w h : Nat) (alpha : Bool) : List Byte :=
  (List.range h).flatMap fun y => (List.range w).flatMap fun x => pack alpha (img x y)

/-- The pixel index of the next pixel to fetch, `p = Y * WIDTH + X` (R51), which is the number of pixels fetched (R40). -/
def pixelsFetched (b : Block d) : Nat :=
  b.y.toNat * b.width.toNat + b.x.toNat

/-- The queue that HOLD and NB are (R23): the bytes of the current record not yet sent, next byte first. -/
def queue (b : Block d) : List Byte :=
  ([b.hold.b0, b.hold.b1, b.hold.b2].take (bpp b.alpha)).drop (bpp b.alpha - b.nb.toNat)

/-- The enabled block step taken with willing partners, the pixel source answering from `img` (R135): the block after it and
the byte it sent with its last marker, if it was an EMIT. -/
def blockTurn (img : Nat → Nat → Sample) (b : Block d) : Block d × List (Byte × Bool) :=
  if fetchEnabled b then (fetchBlock (img b.x.toNat b.y.toNat) b, [])
  else if emitEnabled b then
    match nextByte b with
    | some v => (emitBlock b, [(v, lastByte b)])
    | none => (b, [])
  else (b, [])

/-- `n` block steps in a row: the block after them and the bytes sent, first byte first. -/
def blockRun (img : Nat → Nat → Sample) : Nat → Block d → Block d × List (Byte × Bool)
  | 0, b => (b, [])
  | n + 1, b => ((blockRun img n (blockTurn img b).1).1, (blockTurn img b).2 ++ (blockRun img n (blockTurn img b).1).2)

/-- Block turns with register transactions between them (R140, R233): `none` is a block turn, `some (we, idx, wdata)` a
transaction. The block after them and the bytes sent, first byte first. -/
def mixedRun (img : Nat → Nat → Sample) :
    List (Option (Bool × BitVec 3 × RegData d)) → Block d → Block d × List (Byte × Bool)
  | [], b => (b, [])
  | none :: ts, b => ((mixedRun img ts (blockTurn img b).1).1, (blockTurn img b).2 ++ (mixedRun img ts (blockTurn img b).1).2)
  | some (we, idx, wdata) :: ts, b => mixedRun img ts (regTxn we idx wdata b).1

/-- The events since the last accepted START or RESET: those of the scan under way or of the last one. A stream cut short
by RESET is discarded whole (R221, R228); that RESET discards a complete stream too is the model's. DESIGN CHOICE, safe for the
block (log entry 26). -/
def scanLog (log : List (Event d)) : List (Event d) :=
  log.foldl (fun acc e => if e = .started ∨ e = .reset then [] else acc ++ [e]) []

/-- Has a START been accepted since the last RESET (R26, R156)? -/
def startedSinceReset (log : List (Event d)) : Bool :=
  log.foldl (fun acc e => if e = .reset then false else if e = .started then true else acc) false

/-- The coordinates of a FETCH event. -/
def eventPlace : Event d → Option (Nat × Nat)
  | .fetched x y _ => some (x.toNat, y.toNat)
  | _ => none

/-- The sample of a FETCH event. -/
def eventSample : Event d → Option Sample
  | .fetched _ _ p => some p
  | _ => none

/-- The byte and last marker of an EMIT event. -/
def eventByte : Event d → Option (Byte × Bool)
  | .sent v last => some (v, last)
  | _ => none

/-- The coordinates fetched in these events, in order (R137). -/
def placesFetched (es : List (Event d)) : List (Nat × Nat) :=
  es.filterMap eventPlace

/-- The samples the pixel source returned in these events, in order (R68). -/
def samplesFetched (es : List (Event d)) : List Sample :=
  es.filterMap eventSample

/-- The bytes the sink accepted in these events with their last markers, in order (R52). -/
def bytesSent (es : List (Event d)) : List (Byte × Bool) :=
  es.filterMap eventByte

/-- START as a pseudo-operation: `WR CTRL, 1` (R92). -/
def pseudoStart : List (Instr d) :=
  [.start]

/-- CONFIG w, h, a (R92). -/
def pseudoConfig (w h : Dim d) (a : BitVec 1) : List (Instr d) :=
  [.wrMode a, .wrWidth w, .wrHeight h]

/-- WAIT (R92): `RD STATUS` repeated; `n` is how often. -/
def pseudoWait (n : Nat) : List (Instr d) :=
  List.replicate n .rdStatus

/-- WAIT ends with a read whose bit 1 (DONE) is 1 (R92). -/
def waitOver (data : RegData d) : Bool :=
  data.getLsbD 1

/-- CONVERT w, h, a (R92), with `n` reads of STATUS. -/
def pseudoConvert (w h : Dim d) (a : BitVec 1) (n : Nat) : List (Instr d) :=
  pseudoConfig w h a ++ pseudoStart ++ pseudoWait n ++ [.rdCount, .rdErr]

/-- The block's turns of a whole scan, each with a willing partner, in the order R65 forces. -/
def scanTurns (w h : Nat) (alpha : Bool) : List (Instr d) :=
  (List.replicate (w * h) (.fetch none :: List.replicate (bpp alpha) .emit)).flatten

/-- Operations as step words of the schedule. -/
def turnsOf (is : List (Instr d)) : List (StepWord d) :=
  is.map encode

end Sys2Proof.Machine
end

