-- ==== Sys2Proof/Machine/HostContract.lean ====
section
/-! DEFINITION. The host-side contract (43_host_contract.md): pure functions beside the machine, none of whose data is state
of the block (R5, R170; log entry 16). What the source leaves open (tag values, text around the list, indentation, newline, the
derivation of names) is an argument. The file ends with the whole procedure of R173, `convert`. -/

namespace Sys2Proof.Machine

variable {d : Nat}

/-- The two variants of the colour-format tag (R88, R176). -/
inductive ColorFormat where
  | trueColor
  | trueColorAlpha
  deriving DecidableEq, Repr

/-- The tag of a mode: chosen by alpha presence alone (R88). -/
def formatOf (alpha : Bool) : ColorFormat :=
  if alpha then .trueColorAlpha else .trueColor

/-- Bytes per pixel of a tag (R175). -/
def stride : ColorFormat → Nat
  | .trueColor => 2
  | .trueColorAlpha => 3

/-- `TAG_TRUE_COLOR` and `TAG_TRUE_COLOR_ALPHA`: open, required only to be different (R7, R88, R176). -/
structure TagValues where
  trueColor : Nat
  trueColorAlpha : Nat
  distinct : trueColor ≠ trueColorAlpha

/-- The number a host writes for a tag (R176). -/
def tagNumber (t : TagValues) : ColorFormat → Nat
  | .trueColor => t.trueColor
  | .trueColorAlpha => t.trueColorAlpha

/-- The caller's naming parameters, opaque strings (R179). -/
structure NamingParams where
  /-- The namespace or theme label. -/
  namespaceLabel : String
  /-- The asset identifier or screen label. -/
  assetLabel : String
  /-- The output location. -/
  outputLocation : String
  deriving DecidableEq, Repr

/-- The derived symbol names (R179). -/
structure Names where
  array : String
  descriptor : String
  deriving DecidableEq, Repr

/-- The asset descriptor: six fields in the order of R174. -/
structure Descriptor where
  alwaysZero : Nat
  width : Nat
  height : Nat
  dataSize : Nat
  format : ColorFormat
  dataRef : String
  deriving DecidableEq, Repr

/-- The descriptor a host builds from the block after a scan (R174, R175): all four values from the same scan. -/
def descriptorOf (dataRef : String) (b : Block d) : Descriptor where
  alwaysZero := 0
  width := b.width.toNat
  height := b.height.toNat
  dataSize := b.count.toNat
  format := formatOf b.alpha
  dataRef := dataRef

/-- The consumer's reading of the byte array (R175, R229): the record of pixel `(x, y)`. -/
def consumerRecord (desc : Descriptor) (bytes : List Byte) (x y : Nat) : List Byte :=
  (bytes.drop ((y * desc.width + x) * stride desc.format)).take (stride desc.format)

/-- How one field of the descriptor is rendered (R178): the data size as a `sizeof` of the array (C4), the tag as the number
the host has for it (R176). -/
inductive FieldText where
  | number (n : Nat)
  | sizeOfArray (array : String)
  | tag (value : Nat)
  | reference (array : String)
  deriving DecidableEq, Repr

/-- The fields of the rendered descriptor in their order (R174, R178). -/
def descriptorFields (tags : TagValues) (desc : Descriptor) : List FieldText :=
  [.number desc.alwaysZero, .number desc.width, .number desc.height, .sizeOfArray desc.dataRef,
    .tag (tagNumber tags desc.format), .reference desc.dataRef]

/-- An upper-case hexadecimal digit (R177). -/
def hexDigit (n : Nat) : Char :=
  if n < 10 then Char.ofNat (48 + n) else Char.ofNat (55 + n)

/-- One array element: `0x`, two upper-case hexadecimal digits, comma, space (R177). -/
def renderByte (v : Byte) : List Char :=
  ['0', 'x', hexDigit (v.toNat / 16), hexDigit (v.toNat % 16), ',', ' ']

/-- The text that the source leaves open (R7, R177, N10, D29). -/
structure EmitterParams where
  /-- EMIT_PROLOGUE, the text before the first element; it may name the symbols. -/
  prologue : Names → List Char
  /-- EMIT_EPILOGUE, the text after the last element. -/
  epilogue : Names → List Char
  /-- The indentation in front of the first element of each line; empty where there is none. -/
  indent : List Char
  /-- EMIT_NEWLINE. -/
  newline : List Char
  /-- Does a partial last line end with a newline? -/
  endsPartialLine : Bool

/-- The elements from position `i` on: the indentation in front of the first of each line, a newline after every 16th (R177). -/
def renderFrom (indent newline : List Char) (i : Nat) : List Byte → List Char
  | [] => []
  | v :: vs =>
    (if i % Config.lineLiterals = 0 then indent else []) ++ renderByte v ++
      (if (i + 1) % Config.lineLiterals = 0 then newline else []) ++ renderFrom indent newline (i + 1) vs

/-- The byte array as text (R177). -/
def renderArray (e : EmitterParams) (names : Names) (bytes : List Byte) : List Char :=
  e.prologue names ++ renderFrom e.indent e.newline 0 bytes ++
    (if e.endsPartialLine && bytes.length % Config.lineLiterals != 0 then e.newline else []) ++ e.epilogue names

/-- What a host fixes once: the open parameters of its side (R7, U14), among them the derivation of names (R179: one
deterministic scheme). -/
structure HostParams where
  tags : TagValues
  emitter : EmitterParams
  deriveNames : NamingParams → Names

/-- The software error taxonomy (R181); the block raises none of them. -/
inductive SoftwareError where
  /-- The source path does not resolve to a readable file (C1). -/
  | inputNotFound
  /-- The file is not a supported, valid raster image. -/
  | decodeError
  /-- The destination directory is absent (C2). -/
  | outputDirectoryMissing
  /-- Any other write failure. -/
  | ioError
  deriving DecidableEq, Repr

/-- A decoded image with the decoder's report: the grid has the reported size (R171). A width or height of 0, which the source
does not admit, is not shut out. DESIGN CHOICE (log entry 27). -/
structure DecodedImage where
  width : Nat
  height : Nat
  hasAlpha : Bool
  pixels : Image
  sized : Image.hasSize pixels width height
  deriving DecidableEq, Repr

/-- The pixel source holds the decoded grid: from now on it answers every `PixRead(x, y)` from it (R171, R222 step 2). -/
def loadImage (img : DecodedImage) (s : State d) : State d :=
  { s with pix := img.pixels }

/-- What the decoder finds at the input path (R171, R181). -/
inductive Input where
  | unreadable
  | notAnImage
  | image (img : DecodedImage)
  deriving DecidableEq, Repr

/-- What the attempt to write finds at the output location (R181). -/
inductive Destination where
  | ready
  | directoryMissing
  | writeFails
  deriving DecidableEq, Repr

/-- Why a conversion has written nothing. -/
inductive HostFailure where
  /-- One of the source's errors (R181). -/
  | software (e : SoftwareError)
  /-- A scan is running when the conversion begins (R173 step 2 asks for an idle block). -/
  | blockBusy
  /-- The image does not fit the block's dimension registers (U15): the block cannot be used. -/
  | imageTooLarge
  /-- The scan is not over (R173 step 3, R228): the host still waits, for ever if a partner never answers (R141). -/
  | scanNotOver
  /-- ERR is not 0 after the scan: no name in the source, a failed conversion (R173 step 4, R181). -/
  | blockFault (err : Nat)
  /-- COUNT is not the buffer's length (R173 step 4). -/
  | countMismatch
  /-- The machine stopped on an operation: no state that a run from RESET reaches does that (log entries 6, 7). -/
  | machineStopped
  deriving DecidableEq, Repr

/-- The output unit (R180): the symbols' names, the array's text and the descriptor's fields. -/
structure Artifact where
  names : Names
  array : List Char
  fields : List FieldText
  deriving DecidableEq, Repr

/-- The artifacts that exist, by location. -/
abbrev Disk := List (String × Artifact)

/-- The artifact at a location. -/
def Disk.read (disk : Disk) (location : String) : Option Artifact :=
  match disk with
  | [] => none
  | (k, a) :: rest => if k = location then some a else Disk.read rest location

/-- Create or overwrite the one artifact at a location, in one piece (R180). -/
def Disk.put (disk : Disk) (location : String) (a : Artifact) : Disk :=
  match disk with
  | [] => [(location, a)]
  | (k, b) :: rest => if k = location then (k, a) :: rest else (k, b) :: Disk.put rest location a

/-- Step (1) of R173: decode or fail. -/
def decodeInput : Input → Except HostFailure DecodedImage
  | .unreadable => .error (.software .inputNotFound)
  | .notAnImage => .error (.software .decodeError)
  | .image img => .ok img

/-- Step (2) of R173 with R172: the transactions that configure and start the block for an image. An
image with a width or height of 0 (R222 step 3 wants both at least 1) is not refused here: the host writes the 0 and the START is
refused with E_DIM. DESIGN CHOICE, unsafe for the name of the failure (log entry 27); the E_DIM stays (log entry 28). -/
def configureFor (img : DecodedImage) : Except HostFailure (List (Instr d)) :=
  if img.width < 2 ^ d ∧ img.height < 2 ^ d then
    .ok (pseudoConfig (BitVec.ofNat _ img.width) (BitVec.ofNat _ img.height) (BitVec.ofBool img.hasAlpha) ++ pseudoStart)
  else .error .imageTooLarge

/-- What the sink has accepted of the scan, with the last markers (R52, R62). -/
def acceptedBytes (s : State d) : List (Byte × Bool) :=
  bytesSent (scanLog s.log)

/-- The buffer the sink has collected (R173 step 3). -/
def bufferOf (s : State d) : List Byte :=
  (acceptedBytes s).map Prod.fst

/-- The two ways of step (3) of R173 to see that the scan is over. -/
inductive Watch where
  /-- The sink has accepted the byte with `out_last = 1`. -/
  | lastMarker
  /-- `RD STATUS` shows DONE = 1. -/
  | pollDone
  deriving DecidableEq, Repr

/-- Is the scan over, in the host's way of looking (R173 step 3, R228)? Since `scanLog` forgets at RESET, a complete stream after
which the block was reset counts as not over, in both ways of looking (log entry 26). Since a refused START leaves the log and
DONE as they were, a host whose START was refused after an earlier complete scan sees that scan's end, by its last marker or by
DONE, and fails on ERR (log entry 27). DESIGN CHOICE, unsafe only for the name of the failure. -/
def scanOver (how : Watch) (s : State d) : Bool :=
  match how with
  | .lastMarker => (acceptedBytes s).getLast?.map Prod.snd == some true
  | .pollDone => waitOver (regData 1 s.block)

/-- Step (5) of R173: names, text and descriptor, all from the scan that is over (R174, R175, R177 to R179). -/
def artifactOf (h : HostParams) (naming : NamingParams) (s : State d) : Artifact where
  names := h.deriveNames naming
  array := renderArray h.emitter (h.deriveNames naming) (bufferOf s)
  fields := descriptorFields h.tags (descriptorOf (h.deriveNames naming).array s.block)

/-- Step (6) of R173: write in one piece or not at all (R180, R181). -/
def writeArtifact (dest : Destination) (location : String) (a : Artifact) (disk : Disk) : Except HostFailure Disk :=
  match dest with
  | .ready => .ok (disk.put location a)
  | .directoryMissing => .error (.software .outputDirectoryMissing)
  | .writeFails => .error (.software .ioError)

/-- Steps (3) to (6) of R173 on the machine as the host finds it: is the scan over, does ERR read 0, is COUNT the buffer's length;
then the artifact is built and written. -/
def finishConversion (h : HostParams) (naming : NamingParams) (how : Watch) (dest : Destination) (s : State d) (disk : Disk) :
    Except HostFailure (Artifact × Disk) :=
  if scanOver how s = false then .error .scanNotOver
  else if regData 6 s.block ≠ 0 then .error (.blockFault (regData 6 s.block).toNat)
  else if (regData 5 s.block).toNat ≠ (bufferOf s).length then .error .countMismatch
  else (writeArtifact dest naming.outputLocation (artifactOf h naming s) disk).map fun disk' => (artifactOf h naming s, disk')

/-- What happens while the host waits (R173 step 3): the turns of the other agents, the host's own polls, and a RESET by the
platform. -/
inductive PartnerTurn where
  /-- The pixel source answers, from its image or with the sample of that moment (log entry 10). -/
  | answer (p : Option Sample)
  /-- The sink accepts. -/
  | accept
  /-- Nobody acts. -/
  | nothing
  /-- The host polls STATUS. -/
  | poll
  /-- The platform resets the block. -/
  | reset
  deriving DecidableEq, Repr

/-- The operation of such a turn. -/
def PartnerTurn.instr : PartnerTurn → Instr d
  | .answer p => .fetch p
  | .accept => .emit
  | .nothing => .idle
  | .poll => .rdStatus
  | .reset => .reset

/-- What a caller asks for, with what the outside answers. -/
structure Request where
  naming : NamingParams
  input : Input
  destination : Destination
  watch : Watch
  deriving DecidableEq, Repr

/-- The machine and the artifacts. -/
structure World (d : Nat) where
  machine : State d
  disk : Disk
  deriving DecidableEq, Repr

/-- The machine after the host's last look: the read of STATUS of step (3) where the host polls, then, only where the scan is
over, the reads of step (4), ERR and COUNT. That each is read once, ERR first, and COUNT also where ERR is not 0, is the model's.
DESIGN CHOICE, safe: a read changes nothing but the log (log entry 16). -/
def finalReads (how : Watch) (s : State d) : State d :=
  let seen := match how with
    | .lastMarker => s
    | .pollDone => s.readReg 1
  if scanOver how s then (seen.readReg 6).readReg 5 else seen

/-- Steps (2) to (6) of R173 for a decoded image. Step (2) wants an idle block; that the host finds out by one read of STATUS is
the model's. DESIGN CHOICE, safe (log entry 16). The host never resets the block: an ERR that an earlier conversion left stays, and
makes this one end in `blockFault` once its scan is over, until the platform resets the block. DESIGN CHOICE, unsafe for a claim
that such a conversion fails (log entry 28). -/
def convertImage (h : HostParams) (req : Request) (img : DecodedImage) (turns : List PartnerTurn) (w : World d) :
    World d × Except HostFailure Artifact :=
  if busy w.machine.block then ({ w with machine := w.machine.readReg 1 }, .error .blockBusy)
  else
    match configureFor img with
    | .error e => ({ w with machine := w.machine.readReg 1 }, .error e)
    | .ok config =>
      match runAll (config ++ turns.map PartnerTurn.instr) (loadImage img (w.machine.readReg 1)) with
      | .next s =>
        match finishConversion h req.naming req.watch req.destination (finalReads req.watch s) w.disk with
        | .ok (a, disk) => (⟨finalReads req.watch s, disk⟩, .ok a)
        | .error e => (⟨finalReads req.watch s, w.disk⟩, .error e)
      | _ => (w, .error .machineStopped)

/-- One conversion, R173 from (1) to (6): `turns` is what happens between START and the host's last look. A failure leaves
the artifacts as they were (R181). -/
def convert (h : HostParams) (req : Request) (turns : List PartnerTurn) (w : World d) : World d × Except HostFailure Artifact :=
  match decodeInput req.input with
  | .error e => (w, .error e)
  | .ok img => convertImage h req img turns w

end Sys2Proof.Machine
end

