-- ==== Sys2Proof/Machine/Ports.lean ====
section
/-! DEFINITION. The reference binding to pins (20_memory.md rules R60 to R64): what the ports carry, and what one rising clock edge
does in terms of the atomic steps. No other file depends on it (R60's section says so; log entry 17). -/

namespace Sys2Proof.Machine

variable {d : Nat}

/-- The input pins at one rising edge (R60 to R63). -/
structure PinsIn (d : Nat := Config.dimBits) where
  /-- `rst` (R60). -/
  rst : Bool
  /-- `reg_valid`, `reg_we`, `reg_idx`, `reg_wdata` (R63). -/
  regValid : Bool
  regWe : Bool
  regIdx : BitVec 3
  regWdata : RegData d
  /-- `pix_valid`, `pix_r`, `pix_g`, `pix_b`, `pix_a` (R61). -/
  pixValid : Bool
  pix : Sample
  /-- `out_ready` (R62). -/
  outReady : Bool
  deriving DecidableEq, Repr

/-- The pixel port's outputs: `some (pix_x, pix_y)` while `pix_ready = 1`; nothing is said of them otherwise (R61, U8). -/
def pixPort (b : Block d) : Option (BitVec d × BitVec d) :=
  if fetchEnabled b then some (b.x, b.y) else none

/-- The output port: `some (out_data, out_last)` while `out_valid = 1`; nothing is said of them otherwise (R62, U8). -/
def outPort (b : Block d) : Option (Byte × Bool) :=
  if pend b then (nextByte b).map fun v => (v, lastByte b) else none

/-- `reg_rdata` during a read, from the state before the edge; nothing is said of it for a write (R63, U8). While `rst = 1` no
read happens (R60), and the spec does not say what the port carries then: nothing is said of it either.
DESIGN CHOICE, safe (log entry 17). -/
def regRdata (p : PinsIn d) (s : State d) : Option (RegData d) :=
  if !p.rst && p.regValid && !p.regWe then some (regData p.regIdx s.block) else none

/-- The register transaction of an edge, if there is one (R63). -/
def edgeReg (p : PinsIn d) (s : State d) : Host.Outcome (State d) Fault Refusal :=
  if p.regValid then execAt (decodeRegt p.regWe p.regIdx p.regWdata) s else .next s

/-- The block step of an edge, judged on the block before the edge, `b`: FETCH where `pix_ready` and `pix_valid` are 1, EMIT
where `out_valid` and `out_ready` are 1, else none (R61, R62). -/
def edgeBlock (p : PinsIn d) (b : Block d) (s : State d) : Host.Outcome (State d) Fault Refusal :=
  if fetchEnabled b && p.pixValid then execAt (.fetch (some p.pix)) s
  else if pend b && p.outReady then execAt .emit s
  else .next s

/-- One rising edge (R60, R64): RESET alone while `rst = 1`; else the register transaction first, then the block step. -/
def edge (p : PinsIn d) (s : State d) : Host.Outcome (State d) Fault Refusal :=
  if p.rst then execAt .reset s
  else
    match edgeReg p s with
    | .next t => edgeBlock p s.block t
    | .fault f => .fault f
    | .refused r => .refused r

end Sys2Proof.Machine
end

