-- ==== Sys2Proof/Safety.lean ====
section
/-! DEFINITION. What counts as a safe state and a safe step: the six invariants of 10_state.md rule R40, the canonical form of
the output memory, and what the event log must say of a scan under way (41_scan_serializer.md rules R136 to R138). -/

namespace Sys2Proof.Safety

open Sys2Proof.Machine

variable {d : Nat}

/-- The invariants of R40, item by item. -/
structure BlockInv (b : Block d) : Prop where
  /-- Item 1: PHASE = IDLE implies NB = 0. -/
  idleNb : b.phase = .idle → b.nb = 0
  /-- Item 2: while a scan runs the dimensions are positive, X < WIDTH, Y ≤ HEIGHT, NB ≤ 2 + ALPHA. -/
  scanRange : b.phase = .scan →
    1 ≤ b.width.toNat ∧ 1 ≤ b.height.toNat ∧ b.x.toNat < b.width.toNat ∧ b.y.toNat ≤ b.height.toNat ∧
      b.nb.toNat ≤ bpp b.alpha
  /-- Item 3: when every pixel has been fetched, bytes are pending and X = 0. -/
  scanEnd : b.phase = .scan → b.y = b.height → 1 ≤ b.nb.toNat ∧ b.x = 0
  /-- Item 4, COUNT = (2 + ALPHA) * F - NB, written as a sum. -/
  scanCount : b.phase = .scan → b.count.toNat + b.nb.toNat = bpp b.alpha * pixelsFetched b
  /-- Item 5: BUSY and DONE are not both 1. -/
  notBusyDone : ¬(b.phase = .scan ∧ b.done = true)
  /-- Item 6: COUNT never passes the largest scan's total (R138), which is below 2^CNT_BITS. -/
  countBound : b.count.toNat ≤ 3 * ((2 ^ d - 1) * (2 ^ d - 1))

/-- The invariant of the machine: R40, and the canonical form of the output memory. -/
structure Inv (s : State d) : Prop where
  block : BlockInv s.block
  out : Memory.wf s.out

/-- What the log says of the scan under way: the coordinates fetched are the first ones of the scan order (R137); the bytes
sent and the bytes still queued are the records of the samples returned, in order (R136, R68); as many bytes as COUNT were
sent, none of them marked last; and the sink's memory holds them from offset 0 (R52). And what it says of the scan that is over
(R26, R66, R136, R228): with DONE = 1 as many bytes as COUNT were sent, exactly the last of them marked last; in idle with
DONE = 0 none since RESET, which discards a complete stream too (log entry 26). -/
structure ScanHistory (s : State d) : Prop where
  places : s.block.phase = .scan →
    placesFetched (scanLog s.log) =
      (List.range (pixelsFetched s.block)).map fun p => (p % s.block.width.toNat, p / s.block.width.toNat)
  stream : s.block.phase = .scan →
    (bytesSent (scanLog s.log)).map Prod.fst ++ queue s.block =
      (samplesFetched (scanLog s.log)).flatMap (pack s.block.alpha)
  sentCount : s.block.phase = .scan → (bytesSent (scanLog s.log)).length = s.block.count.toNat
  notLast : s.block.phase = .scan → ∀ q ∈ bytesSent (scanLog s.log), q.2 = false
  stored : s.block.phase = .scan → ∀ n, n < s.block.count.toNat →
    Memory.read s.out n = ((bytesSent (scanLog s.log))[n]?).map Prod.fst
  completed : s.block.phase = .idle → s.block.done = true →
    (bytesSent (scanLog s.log)).length = s.block.count.toNat ∧
      ∃ n, (bytesSent (scanLog s.log)).map Prod.snd = List.replicate n false ++ [true]
  quiet : s.block.phase = .idle → s.block.done = false → bytesSent (scanLog s.log) = []

/-- What BUSY and DONE say of the past (R26, R156): while a scan runs, and in idle exactly when DONE = 1, a START has been
accepted since the last RESET. -/
structure StatusHistory (s : State d) : Prop where
  busy : s.block.phase = .scan → startedSinceReset s.log = true
  idle : s.block.phase = .idle → s.block.done = startedSinceReset s.log

/-- A safe step ends in a next state. -/
def answersNext (o : Host.Outcome (State d) Fault Refusal) : Prop :=
  ∃ t, o = .next t

end Sys2Proof.Safety
end

