-- ==== Sys2Proof/Certificates/Slice0/Obligations.lean ====
section
/-! DEFINITION. What is claimed of RGB565PK: statements for the provers, from the numbered rules of spec/. -/

open Sys2Proof Sys2Proof.Machine Sys2Proof.Safety

/-! ## The pixel packer (40_pixel_pack.md) -/

/-- R111, R112, R113: the quantizers keep the top 5, 6, 5 bits, floor(c / 8) and floor(c / 4); run on their own they change
nothing but the log. That a function has a turn of its own, which completes and logs its result, is the model's choice
(log entry 14). -/
def Obligations.QuantizersTruncate : Prop :=
  ∀ (s : State) (c : Byte),
    (exec (.qr5 c) s = .next { s with log := s.log ++ [.computed (.r5 (c.extractLsb' 3 5))] } ∧
      (c.extractLsb' 3 5).toNat = c.toNat / 8) ∧
    (exec (.qg6 c) s = .next { s with log := s.log ++ [.computed (.g6 (c.extractLsb' 2 6))] } ∧
      (c.extractLsb' 2 6).toNat = c.toNat / 4) ∧
    exec (.qb5 c) s = .next { s with log := s.log ++ [.computed (.b5 (c.extractLsb' 3 5))] }

/-- R114, R81: PK565 is the concatenation `{ r5, g6, b5 }`, which is the sum; and in the packed pixel of a sample the top 5 bits
are `r >> 3`, the next 6 `g >> 2`, the bottom 5 `b >> 3`. The turn of PK565 on its own is the model's choice
(log entry 14). -/
def Obligations.PackerPlacesFields : Prop :=
  (∀ (s : State) (r5 : BitVec 5) (g6 : BitVec 6) (b5 : BitVec 5),
    exec (.pk565 r5 g6 b5) s =
      .next { s with log := s.log ++ [.computed (.rgb565 (r5 ++ g6 ++ b5 : BitVec (5 + 6 + 5)))] } ∧
    (r5 ++ g6 ++ b5 : BitVec (5 + 6 + 5)).toNat = r5.toNat * 2048 + g6.toNat * 32 + b5.toNat) ∧
  ∀ p : Sample,
    (pix16 p).toNat / 2048 = p.r.toNat / 8 ∧
    (pix16 p).toNat / 32 % 64 = p.g.toNat / 4 ∧
    (pix16 p).toNat % 32 = p.b.toNat / 8

/-- R115: SPLIT gives bits 15:8 and 7:0; on the packed pixel of a sample the two bytes are
`(r & 0xF8) | (g >> 5)` and `((g << 3) & 0xE0) | (b >> 3)`. The turn of SPLIT on its own is the model's choice
(log entry 14). -/
def Obligations.SplitCutsBytes : Prop :=
  (∀ (s : State) (px : BitVec 16),
    exec (.split px) s =
      .next { s with log := s.log ++ [.computed (.bytes (px.extractLsb' 8 8) (px.extractLsb' 0 8))] }) ∧
  ∀ p : Sample,
    (pix16 p).extractLsb' 8 8 = (p.r &&& 0xF8) ||| (p.g >>> 5) ∧
    (pix16 p).extractLsb' 0 8 = ((p.g <<< 3) &&& 0xE0) ||| (p.b >>> 3)

/-- R82, R83: the records bit by bit, and the completion of PACK.RGB and PACK.RGBA run on their own, which is
the model's choice (log entry 14). -/
def Obligations.RecordLayout : Prop :=
  ∀ (s : State) (p : Sample),
    exec (.packRgb p) s =
      .next { s with log := s.log ++ [.computed (.record
        [(p.r.extractLsb' 3 5 ++ p.g.extractLsb' 5 3 : BitVec (5 + 3)),
         (p.g.extractLsb' 2 3 ++ p.b.extractLsb' 3 5 : BitVec (3 + 5))])] } ∧
    exec (.packRgba p) s =
      .next { s with log := s.log ++ [.computed (.record
        [(p.r.extractLsb' 3 5 ++ p.g.extractLsb' 5 3 : BitVec (5 + 3)),
         (p.g.extractLsb' 2 3 ++ p.b.extractLsb' 3 5 : BitVec (3 + 5)), p.a])] }

/-- From R116 and R117: the no-alpha record does not depend on alpha, the alpha record is it with alpha appended; two samples
have one colour record exactly when their kept bits agree; and every 16-bit value is the packed pixel of some sample. -/
def Obligations.RecordsForgetOnlyLowBits : Prop :=
  (∀ p q : Sample, packRgb p = packRgb q ↔
    p.r.toNat / 8 = q.r.toNat / 8 ∧ p.g.toNat / 4 = q.g.toNat / 4 ∧ p.b.toNat / 8 = q.b.toNat / 8) ∧
  (∀ p : Sample, pack true p = pack false p ++ [p.a]) ∧
  ∀ px : BitVec 16, ∃ p : Sample, pix16 p = px

/-- From R119 items (3) and (4): each quantizer is monotonic, and a change of one channel changes only its own field. -/
def Obligations.ChannelsMonotonicAndIndependent : Prop :=
  (∀ c c' : Byte, c.toNat ≤ c'.toNat →
    (qr5 c).toNat ≤ (qr5 c').toNat ∧ (qg6 c).toNat ≤ (qg6 c').toNat ∧ (qb5 c).toNat ≤ (qb5 c').toNat) ∧
  ∀ (p : Sample) (v : Byte) (i : Nat),
    (i < 11 → (pix16 { p with r := v }).getLsbD i = (pix16 p).getLsbD i) ∧
    (i < 5 ∨ 11 ≤ i → (pix16 { p with g := v }).getLsbD i = (pix16 p).getLsbD i) ∧
    (5 ≤ i → (pix16 { p with b := v }).getLsbD i = (pix16 p).getLsbD i) ∧
    pix16 { p with a := v } = pix16 p

/-! ## The scan serializer (41_scan_serializer.md) -/

/-- R131: START, each of its three cases in full, for the row START and for a write of CTRL with bit 0 set; START right after
RESET raises E_DIM. And R64 with the pins of log entry 17: a START presented at any clock edge of a running scan, whether or not
a pixel is answered or a byte accepted at the same edge, raises E_BUSY, and the rest of the block is what the edge makes of it
without the START. -/
def Obligations.StartCases : Prop :=
  (∀ i : Instr, i = .start ∨ i = .wrCtrl 1 →
    (∀ s : State, s.block.phase = .scan →
      exec i s = .next { s with block := { s.block with err := s.block.err ||| 2 } }) ∧
    (∀ s : State, s.block.phase = .idle → s.block.width = 0 ∨ s.block.height = 0 →
      exec i s = .next { s with block := { s.block with err := s.block.err ||| 4 } }) ∧
    (∀ s : State, s.block.phase = .idle → s.block.width ≠ 0 → s.block.height ≠ 0 →
      exec i s = .next { s with
        block := { s.block with phase := .scan, done := false, x := 0, y := 0, nb := 0, count := 0 }
        log := s.log ++ [.started] }) ∧
    ∀ s t u : State, exec .reset s = .next t → exec i t = .next u → u.block.phase = .idle ∧ u.block.err = 4) ∧
  ∀ (s : State) (p : PinsIn), BlockInv s.block → s.block.phase = .scan → p.rst = false → p.regValid = true →
    p.regWe = true → p.regIdx = 0 → p.regWdata = 1 →
    ∃ t v : State, edge p s = .next t ∧ edge { p with regValid := false } s = .next v ∧
      t.block = { v.block with err := s.block.err ||| 2 }

/-- R132, with R133 for the position: a FETCH that the pixel source answers with `p` loads the record of `p` and moves to the next
pixel, and everything not named is unchanged. The answer is that of the image, which holds `p` at (X, Y), or one carried by the
turn itself, which is the model's reading of a source that answers otherwise (log entry 10); the event in the log is the model's
(log entry 12). -/
def Obligations.FetchLoadsRecord : Prop :=
  ∀ (s : State) (answer : Option Sample) (p : Sample), s.block.phase = .scan → s.block.nb = 0 →
    answer = some p ∨ (answer = none ∧ Image.read s.pix s.block.x.toNat s.block.y.toNat = some p) →
    exec (.fetch answer) s = .next { s with
      block := { s.block with
        hold :=
          { b0 := (p.r.extractLsb' 3 5 ++ p.g.extractLsb' 5 3 : BitVec (5 + 3))
            b1 := (p.g.extractLsb' 2 3 ++ p.b.extractLsb' 3 5 : BitVec (3 + 5))
            b2 := if s.block.alpha then p.a else s.block.hold.b2 }
        nb := if s.block.alpha then 3 else 2
        x := if s.block.x.toNat + 1 < s.block.width.toNat then s.block.x + 1 else 0
        y := if s.block.x.toNat + 1 < s.block.width.toNat then s.block.y else s.block.y + 1 }
      log := s.log ++ [.fetched s.block.x s.block.y p] }

/-- U4 and R230: outside its image the pixel source may answer anything; FETCH completes with some sample. The sample is a free
value of the model (log entry 9), and the statement holds for every one. -/
def Obligations.FetchOutsideImageCompletes : Prop :=
  ∀ s : State, s.block.phase = .scan → s.block.nb = 0 →
    Image.read s.pix s.block.x.toNat s.block.y.toNat = none →
    ∃ p : Sample, exec (.fetch none) s = .next { s with
      block := fetchBlock p s.block
      log := s.log ++ [.fetched s.block.x s.block.y p]
      free := s.free + 1 }

/-- R61, R62, R135: an answer without a request, an acceptance without a byte offered, and an idle turn change nothing. That the
turn is spent is the model's reading (log entries 4 and 5). -/
def Obligations.OffersNotTakenChangeNothing : Prop :=
  (∀ (s : State) (answer : Option Sample), ¬(s.block.phase = .scan ∧ s.block.nb = 0) →
    exec (.fetch answer) s = .next s) ∧
  (∀ s : State, s.block.nb = 0 → exec .emit s = .next s) ∧
  ∀ s : State, exec .idle s = .next s

/-- R133: NEXT returns the successor in scan order; inside the grid it is the next pixel index. That NEXT has a turn of its own,
which logs the position and writes neither X nor Y, is the model's choice (log entry 14). -/
def Obligations.NextIsScanOrderSuccessor : Prop :=
  (∀ s : State, exec .next s = .next { s with log := s.log ++ [.computed (.position
    (if s.block.x.toNat + 1 < s.block.width.toNat then s.block.x + 1 else 0)
    (if s.block.x.toNat + 1 < s.block.width.toNat then s.block.y else s.block.y + 1))] }) ∧
  ∀ (d : Nat) (w x y : BitVec d), x.toNat < w.toNat → y.toNat + 1 < 2 ^ d →
    (nextPos w x y).2.toNat * w.toNat + (nextPos w x y).1.toNat = (y.toNat * w.toNat + x.toNat) + 1 ∧
    (nextPos w x y).1.toNat < w.toNat

/-- R134: EMIT sends lane BPP - NB at offset COUNT, counts it, and ends the scan on the last byte. -/
def Obligations.EmitSendsNextByte : Prop :=
  ∀ (s : State) (v : Byte) (last : Bool), s.block.phase = .scan → s.block.nb ≠ 0 →
    s.block.nb.toNat ≤ (if s.block.alpha then 3 else 2) →
    v = (if s.block.nb.toNat = (if s.block.alpha then 3 else 2) then s.block.hold.b0
      else if s.block.nb.toNat + 1 = (if s.block.alpha then 3 else 2) then s.block.hold.b1 else s.block.hold.b2) →
    last = (s.block.nb == 1 && s.block.y == s.block.height) →
    exec .emit s = .next { s with
      block := { s.block with
        count := s.block.count + 1
        nb := s.block.nb - 1
        phase := if last then .idle else .scan
        done := if last then true else s.block.done }
      out := Memory.write s.out s.block.count.toNat v
      log := s.log ++ [.sent v last] }

/-- R52 and R134: the byte an EMIT sends stands in the output space at offset COUNT, and every other offset is as it was. -/
def Obligations.EmitStoresOneByteAtCount : Prop :=
  ∀ (s t : State) (v : Byte), exec .emit s = .next t → emitEnabled s.block = true → nextByte s.block = some v →
    Memory.read t.out s.block.count.toNat = some v ∧
    ∀ a : Nat, a ≠ s.block.count.toNat → Memory.read t.out a = Memory.read s.out a

/-- R87, R89, R40 with U13: where the model stops. The selector value `0 1 -` is refused; more bytes pending than the record has
is a fault (the model's choice, log entries 6 and 7). Nothing else stops. -/
def Obligations.StopsOnlyOutsideInvariant : Prop :=
  (∀ s : State, exec .unreachable s = .refused .unreachableSelector) ∧
  (∀ s : State, s.block.phase = .idle → s.block.nb ≠ 0 → exec .emit s = .refused .unreachableSelector) ∧
  (∀ s : State, s.block.phase = .scan → (if s.block.alpha then 3 else 2) < s.block.nb.toNat →
    exec .emit s = .fault .laneOutOfRange) ∧
  ∀ (i : Instr) (s : State), BlockInv s.block → i ≠ .unreachable → ∃ t, exec i s = .next t

/-- R87: the selector of every state is {PHASE, PEND, ALPHA}, bit 2 PHASE, bit 1 PEND = (NB ≠ 0), bit 0 ALPHA, and it selects the
step of the table; where that is FETCH, bit 0 tells a record of two bytes from one of three. -/
def Obligations.SelectorTable : Prop :=
  ∀ (d : Nat) (b : Block d),
    ((sel b).getLsbD 2 = true ↔ b.phase = .scan) ∧
    ((sel b).getLsbD 1 = true ↔ b.nb ≠ 0) ∧
    (sel b).getLsbD 0 = b.alpha ∧
    (b.phase = .idle → b.nb = 0 → decodeSel (sel b) = (.idle : Instr d)) ∧
    (b.phase = .idle → b.nb ≠ 0 → decodeSel (sel b) = (.unreachable : Instr d)) ∧
    (b.phase = .scan → b.nb = 0 → decodeSel (sel b) = (.fetch none : Instr d) ∧
      ∀ p, (pack b.alpha p).length = (if (sel b).getLsbD 0 then 3 else 2)) ∧
    (b.phase = .scan → b.nb ≠ 0 → decodeSel (sel b) = (.emit : Instr d))

/-- R135 with R40, for every number of dimension bits: in a state that meets the invariants no step is enabled in IDLE, exactly
one in SCAN, and FETCH only with a row left to fetch. -/
def Obligations.OneBlockStepEnabled : Prop :=
  ∀ (d : Nat) (b : Block d), BlockInv b →
    (b.phase = .idle → fetchEnabled b = false ∧ emitEnabled b = false) ∧
    (b.phase = .scan → (fetchEnabled b != emitEnabled b) = true) ∧
    (fetchEnabled b = true → b.y.toNat < b.height.toNat) ∧
    (emitEnabled b = true → ∃ v, nextByte b = some v ∧ (queue b).head? = some v)

/-! ## Register transactions (42_register_access.md) -/

/-- R85: the table of all 16 values of `op`. -/
def Obligations.RegisterTransactionTable : Prop :=
  ∀ wdata : RegData,
    (decodeRegt false 0 wdata = .rdCtrl ∧ decodeRegt false 1 wdata = .rdStatus ∧
      decodeRegt false 2 wdata = .rdMode ∧ decodeRegt false 3 wdata = .rdWidth ∧
      decodeRegt false 4 wdata = .rdHeight ∧ decodeRegt false 5 wdata = .rdCount ∧
      decodeRegt false 6 wdata = .rdErr ∧ decodeRegt false 7 wdata = .illRd) ∧
    (decodeRegt true 0 wdata =
      if wdata = 1 then .start else if wdata = 0 then .wrCtrl 0 else .illWrReserved 0 wdata) ∧
    decodeRegt true 1 wdata = .illWrStatus wdata ∧
    (decodeRegt true 2 wdata =
      if wdata.toNat < 2 then .wrMode (wdata.extractLsb' 0 1) else .illWrReserved 2 wdata) ∧
    (decodeRegt true 3 wdata =
      if wdata.toNat < 65536 then .wrWidth (wdata.extractLsb' 0 16) else .illWrReserved 3 wdata) ∧
    (decodeRegt true 4 wdata =
      if wdata.toNat < 65536 then .wrHeight (wdata.extractLsb' 0 16) else .illWrReserved 4 wdata) ∧
    decodeRegt true 5 wdata = .illWrCount wdata ∧
    decodeRegt true 6 wdata = .illWrErr wdata ∧
    decodeRegt true 7 wdata = .illWrUnmapped wdata

/-- R150: every transaction completes in every state; its effect on the block and the data it returns are those of the rule's
own pseudocode; it reads no pixel and sends no byte. -/
def Obligations.TransactionFollowsDecodeOrder : Prop :=
  ∀ (we : Bool) (idx : BitVec 3) (wdata : RegData) (s : State), ∃ t : State,
    exec (decodeRegt we idx wdata) s = .next t ∧
    t.block = (regTxn we idx wdata s.block).1 ∧
    (we = false → ∃ data, (regTxn we idx wdata s.block).2 = some data ∧ t.log = s.log ++ [.returned idx data]) ∧
    (we = true → (regTxn we idx wdata s.block).2 = none) ∧
    placesFetched t.log = placesFetched s.log ∧ bytesSent t.log = bytesSent s.log ∧
    t.pix = s.pix ∧ t.out = s.out ∧ t.pending = s.pending ∧ t.free = s.free

/-- R151: a write of CTRL, for every data value: reserved bit, START, or nothing in every state. -/
def Obligations.WriteCtrlCommand : Prop :=
  ∀ (s : State) (wdata : RegData),
    (wdata = 0 → decodeRegt true 0 wdata = .wrCtrl 0 ∧ exec (.wrCtrl 0) s = .next s) ∧
    (wdata = 1 → exec (decodeRegt true 0 wdata) s = exec .start s ∧ exec (.wrCtrl 1) s = exec .start s) ∧
    (1 < wdata.toNat → exec (decodeRegt true 0 wdata) s =
      .next { s with block := { s.block with err := s.block.err ||| 1 } }) ∧
    ∀ t u : State, exec (decodeRegt true 0 wdata) s = .next t → exec .rdCtrl t = .next u →
      u.log = t.log ++ [.returned 0 0]

/-- R152: a write of MODE, for every data value and every state. -/
def Obligations.WriteModeConfig : Prop :=
  (∀ (s : State) (a : BitVec 1), s.block.phase = .idle →
    exec (.wrMode a) s = .next { s with block := { s.block with alpha := a == 1 } }) ∧
  (∀ (s : State) (a : BitVec 1), s.block.phase = .scan →
    exec (.wrMode a) s = .next { s with block := { s.block with err := s.block.err ||| 2 } }) ∧
  ∀ (s : State) (wdata : RegData), 1 < wdata.toNat →
    exec (decodeRegt true 2 wdata) s = .next { s with block := { s.block with err := s.block.err ||| 1 } }

/-- R153 and R154: writes of WIDTH and HEIGHT, for every data value and every state. -/
def Obligations.WriteDimensionConfig : Prop :=
  (∀ (s : State) (v : Dim), s.block.phase = .idle →
    exec (.wrWidth v) s = .next { s with block := { s.block with width := v } } ∧
    exec (.wrHeight v) s = .next { s with block := { s.block with height := v } }) ∧
  (∀ (s : State) (v : Dim), s.block.phase = .scan →
    exec (.wrWidth v) s = .next { s with block := { s.block with err := s.block.err ||| 2 } } ∧
    exec (.wrHeight v) s = .next { s with block := { s.block with err := s.block.err ||| 2 } }) ∧
  ∀ (s : State) (idx : BitVec 3) (wdata : RegData), idx = 3 ∨ idx = 4 → 65535 < wdata.toNat →
    exec (decodeRegt true idx wdata) s = .next { s with block := { s.block with err := s.block.err ||| 1 } }

/-- R155, R157, R158, R159, R161: what these reads return; nothing changes but the log. -/
def Obligations.ReadsReturnRegisters : Prop :=
  ∀ s : State,
    exec .rdCtrl s = .next { s with log := s.log ++ [.returned 0 0] } ∧
    exec .rdMode s = .next { s with log := s.log ++ [.returned 2 (if s.block.alpha then 1 else 0)] } ∧
    exec .rdWidth s = .next { s with log := s.log ++ [.returned 3 (s.block.width.setWidth 34)] } ∧
    exec .rdHeight s = .next { s with log := s.log ++ [.returned 4 (s.block.height.setWidth 34)] } ∧
    exec .rdErr s = .next { s with log := s.log ++ [.returned 6 (s.block.err.setWidth 34)] }

/-- R156 with R26: RD.STATUS returns 2 * DONE + BUSY. In a state whose log and flags agree, 0 means idle with no START accepted
since RESET, 1 a scan running, 2 idle with the last started scan completed, and 3 does not occur. -/
def Obligations.StatusReadMeaning : Prop :=
  ∀ s : State,
    exec .rdStatus s = .next { s with log := s.log ++ [.returned 1
      ((if s.block.done then 2 else 0) + (if s.block.phase = .scan then 1 else 0))] } ∧
    (Inv s → StatusHistory s →
      (regData 1 s.block = 0 ↔ s.block.phase = .idle ∧ startedSinceReset s.log = false) ∧
      (regData 1 s.block = 1 ↔ s.block.phase = .scan) ∧
      (regData 1 s.block = 2 ↔ s.block.phase = .idle ∧ startedSinceReset s.log = true) ∧
      regData 1 s.block ≠ 3)

/-- R160: RD.COUNT returns COUNT, which during a scan is the number of bytes the sink has accepted since its START. -/
def Obligations.CountReadMeaning : Prop :=
  ∀ s : State,
    exec .rdCount s = .next { s with log := s.log ++ [.returned 5 s.block.count] } ∧
    (ScanHistory s → s.block.phase = .scan → ∃ t, exec .rdCount s = .next t ∧
      t.log = s.log ++ [.returned 5 (BitVec.ofNat 34 (bytesSent (scanLog s.log)).length)])

/-- R164: a read of a mapped register changes nothing of the block or of the memories, and a second read with nothing between
returns the same value. -/
def Obligations.ReadsAreFreeOfSideEffects : Prop :=
  ∀ i ∈ [Instr.rdCtrl, .rdStatus, .rdMode, .rdWidth, .rdHeight, .rdCount, .rdErr], ∀ s : State,
    ∃ (idx : BitVec 3) (data : RegData) (t : State),
      exec i s = .next t ∧ t = { s with log := s.log ++ [.returned idx data] } ∧
      exec i t = .next { t with log := t.log ++ [.returned idx data] }

/-- R163: a read of index 7 returns 0 and raises E_ILL; it is the only read that changes the block. -/
def Obligations.IllegalReadRaises : Prop :=
  (∀ s : State, exec .illRd s = .next { s with
    block := { s.block with err := s.block.err ||| 1 }, log := s.log ++ [.returned 7 0] }) ∧
  ∀ (s t : State) (idx : BitVec 3) (wdata : RegData), idx ≠ 7 →
    exec (decodeRegt false idx wdata) s = .next t → t.block = s.block

/-- R162: every illegal write, as a row and as a transaction, in every state: E_ILL and nothing else, never E_BUSY or E_DIM. -/
def Obligations.IllegalWritesRaiseOnlyEIll : Prop :=
  (∀ (i : Instr) (s : State) (idx : BitVec 3) (wdata : RegData),
    i ∈ [Instr.illWrStatus wdata, .illWrCount wdata, .illWrErr wdata, .illWrUnmapped wdata, .illWrReserved idx wdata] →
    exec i s = .next { s with block := { s.block with err := s.block.err ||| 1 } }) ∧
  ∀ (s : State) (idx : BitVec 3) (wdata : RegData),
    (idx = 1 ∨ idx = 5 ∨ idx = 6 ∨ idx = 7 ∨
      ((idx = 0 ∨ idx = 2) ∧ 2 ≤ wdata.toNat) ∨ ((idx = 3 ∨ idx = 4) ∧ 65536 ≤ wdata.toNat)) →
    exec (decodeRegt true idx wdata) s = .next { s with block := { s.block with err := s.block.err ||| 1 } }

/-! ## Faults (60_exceptions.md) -/

/-- R193, R194: whatever operation but RESET changes ERR, it sets exactly one of the three bits and changes nothing else of the
block, no memory and no byte on the output port. -/
def Obligations.RaiseSetsOneBitOnly : Prop :=
  ∀ (i : Instr) (s t : State), exec i s = .next t → i ≠ .reset → t.block.err ≠ s.block.err →
    (∃ e : BitVec 3, (e = 1 ∨ e = 2 ∨ e = 4) ∧ t.block = { s.block with err := s.block.err ||| e }) ∧
    t.pix = s.pix ∧ t.out = s.out ∧ bytesSent t.log = bytesSent s.log ∧ placesFetched t.log = placesFetched s.log

/-- R191, R190: which operation raises which fault, and when; all other operations raise none. -/
def Obligations.FaultConditions : Prop :=
  ∀ (i : Instr) (s t : State), exec i s = .next t → i ≠ .reset →
    (t.block.err.getLsbD 0 = (s.block.err.getLsbD 0 || (i == .illRd || match i with
      | .illWrStatus _ | .illWrCount _ | .illWrErr _ | .illWrUnmapped _ | .illWrReserved _ _ => true
      | _ => false))) ∧
    (t.block.err.getLsbD 1 = (s.block.err.getLsbD 1 || (s.block.phase == .scan && match i with
      | .wrMode _ | .wrWidth _ | .wrHeight _ | .start => true
      | .wrCtrl a => a == 1
      | _ => false))) ∧
    (t.block.err.getLsbD 2 = (s.block.err.getLsbD 2 ||
      (s.block.phase == .idle && (s.block.width == 0 || s.block.height == 0) && match i with
      | .start => true
      | .wrCtrl a => a == 1
      | _ => false)))

/-- R34, R195: a fault bit once set stays set through every step whose operation is not RESET; RESET clears all three. -/
def Obligations.FaultBitsAreSticky : Prop :=
  (∀ (s t : State) (k : Nat), step s = .next t →
    (∀ w rest, s.pending = w :: rest → decode w ≠ .ok .reset) →
    s.block.err.getLsbD k = true → t.block.err.getLsbD k = true) ∧
  ∀ s t : State, exec .reset s = .next t → t.block.err = 0

/-! ## Reset (70_reset_and_hazards.md) -/

/-- R220, R221: RESET in every state. X, Y and HOLD get values of which nothing is said (free values, log entries 8 and 19); what the
sink accepted stays, and by the model's reading the image and the schedule too (log entry 20); no request and no byte is offered afterwards. It wins over every other event of its clock edge (log entry 17), no
register transaction is it, and no other operation clears a bit of ERR or ends a scan before its last byte. -/
def Obligations.ResetRestoresInitialValues : Prop :=
  (∀ s : State, ∃ (x y : Dim) (h : Hold) (t : State), exec .reset s = .next t ∧
    t = { s with
      block := { alpha := false, width := 0, height := 0, phase := .idle, done := false, x := x, y := y, nb := 0, hold := h,
                 count := 0, err := 0 }
      log := s.log ++ [.reset]
      free := s.free + 1 } ∧
    pixPort t.block = none ∧ outPort t.block = none) ∧
  (∀ (p : PinsIn) (s : State), p.rst = true → edge p s = exec .reset s) ∧
  (∀ (we : Bool) (idx : BitVec 3) (wdata : RegData), decodeRegt we idx wdata ≠ .reset) ∧
  ∀ (i : Instr) (s t : State), exec i s = .next t → i ≠ .reset →
    (∀ k : Nat, s.block.err.getLsbD k = true → t.block.err.getLsbD k = true) ∧
    (s.block.phase = .scan → t.block.phase = .idle → i = .emit ∧ lastByte s.block = true)

/-- R37: the state after reset: the block's values the spec gives, and by the model's choice (log entries 2, 9, 11, 12) nothing in
the memories, the log and the schedule. -/
def Obligations.ResetStateValues : Prop :=
  let s := State.reset
  s.block.phase = .idle ∧ s.block.done = false ∧ s.block.nb = 0 ∧ s.block.count = 0 ∧ s.block.err = 0 ∧
    s.block.alpha = false ∧ s.block.width = 0 ∧ s.block.height = 0 ∧
    s.pix = [] ∧ s.out = [] ∧ s.log = [] ∧ s.pending = []

/-- R40: the state after reset meets the invariants, and its log agrees with its flags, at every number of dimension bits. -/
def Obligations.ResetStateMeetsInvariants : Prop :=
  (Inv State.reset ∧ ScanHistory State.reset ∧ StatusHistory State.reset) ∧
  ∀ d : Nat, Inv (State.resetAt d) ∧ ScanHistory (State.resetAt d) ∧ StatusHistory (State.resetAt d)

/-- R223: the start-up sequence from any state: RESET, the three configuration writes in this order, START. Then the scan of the
configured dimensions runs and RD STATUS returns 1. -/
def Obligations.StartUpSequence : Prop :=
  ∀ (s s1 s2 s3 s4 s5 : State) (a : BitVec 1) (w h : Dim), w ≠ 0 → h ≠ 0 →
    exec .reset s = .next s1 → exec (.wrMode a) s1 = .next s2 → exec (.wrWidth w) s2 = .next s3 →
    exec (.wrHeight h) s3 = .next s4 → exec .start s4 = .next s5 →
    s5.block.phase = .scan ∧ s5.block.alpha = (a == 1) ∧ s5.block.width = w ∧ s5.block.height = h ∧
    s5.block.err = 0 ∧ regData 1 s5.block = 1

/-! ## Invariants every step keeps -/

/-- R40: every step keeps the six invariants and the canonical form of the output memory. -/
def Obligations.StepKeepsInvariants : Prop :=
  ∀ s t : State, Inv s → step s = .next t → Inv t

/-- R40 for every number of dimension bits: START, FETCH (whatever the sample), EMIT where a byte is offered, every register
transaction and RESET keep the six invariants of the block; so does every step of the machine, which also keeps the canonical
form of the output memory. -/
def Obligations.BlockStepsKeepInvariantsAtEveryWidth : Prop :=
  (∀ (d : Nat) (b : Block d), BlockInv b →
    BlockInv (startBlock b) ∧
    (∀ p : Sample, fetchEnabled b = true → BlockInv (fetchBlock p b)) ∧
    (emitEnabled b = true → BlockInv (emitBlock b)) ∧
    (∀ (we : Bool) (idx : BitVec 3) (wdata : BitVec (Config.cntBits d)), BlockInv (regTxn we idx wdata b).1) ∧
    ∀ n : Nat, BlockInv (Block.afterReset d n)) ∧
  ∀ (d : Nat) (s t : State d), Inv s → stepAt s = .next t → Inv t

/-- R136, R137, R68: every step, at every number of dimension bits, keeps what the log says of the scan under way (coordinates in
scan order, bytes the records of the samples returned, as many as COUNT, stored from offset 0, none marked last) and of the
scan that is over (as many bytes as COUNT, the last alone marked; R66, R228). That a RESET ends even the memory of a complete
stream is the model's choice (log entry 26). -/
def Obligations.StepKeepsScanHistory : Prop :=
  (∀ s t : State, Inv s → ScanHistory s → step s = .next t → ScanHistory t) ∧
  ∀ (d : Nat) (s t : State d), Inv s → ScanHistory s → stepAt s = .next t → ScanHistory t

/-- R26, R156: every step, at every number of dimension bits, keeps the agreement of BUSY and DONE with the past. -/
def Obligations.StepKeepsStatusHistory : Prop :=
  (∀ s t : State, StatusHistory s → step s = .next t → StatusHistory t) ∧
  ∀ (d : Nat) (s t : State d), StatusHistory s → stepAt s = .next t → StatusHistory t

/-- R136, R137, R138: the EMIT that sets DONE. If every sample returned in the scan is that of `img`, the bytes sent since START
are `Serialize(img, WIDTH, HEIGHT, ALPHA)`, COUNT is WIDTH * HEIGHT * BPP, every coordinate was read once in scan order, and
exactly the final byte is marked last. -/
def Obligations.LastEmitCompletesTheStream : Prop :=
  ∀ (s t : State) (img : Nat → Nat → Sample), Inv s → ScanHistory s → exec .emit s = .next t →
    s.block.phase = .scan → t.block.phase = .idle →
    (∀ x y p, Event.fetched x y p ∈ scanLog s.log → p = img x.toNat y.toNat) →
    (bytesSent (scanLog t.log)).map Prod.fst =
      serialize img s.block.width.toNat s.block.height.toNat s.block.alpha ∧
    t.block.done = true ∧
    t.block.count.toNat = s.block.width.toNat * s.block.height.toNat * bpp s.block.alpha ∧
    placesFetched (scanLog t.log) =
      ((List.range s.block.height.toNat).flatMap fun y => (List.range s.block.width.toNat).map fun x => (x, y)) ∧
    ∃ n, (bytesSent (scanLog t.log)).map Prod.snd = List.replicate n false ++ [true]

/-- R131 to R138, R233, for every number of dimension bits: from an accepted START the block, with willing partners and an image
`img`, completes the scan in exactly WIDTH * HEIGHT * (1 + BPP) further steps, sending Serialize(img, ...). -/
def Obligations.ScanRunsToCompletion : Prop :=
  ∀ (d : Nat) (b : Block d) (img : Nat → Nat → Sample), startAccepted b = true →
    let n := b.width.toNat * b.height.toNat * (1 + bpp b.alpha)
    let r := blockRun img n (startBlock b)
    r.1.phase = .idle ∧ r.1.done = true ∧
    r.1.count.toNat = b.width.toNat * b.height.toNat * bpp b.alpha ∧
    r.2.map Prod.fst = serialize img b.width.toNat b.height.toNat b.alpha ∧
    (∃ k, r.2.map Prod.snd = List.replicate k false ++ [true]) ∧
    ∀ m, m < n → (blockRun img m (startBlock b)).1.phase = .scan

/-- R2, R139, R140: the stream of a scan depends on width, height, alpha mode and the samples alone: two blocks that agree on the
three configuration elements send the same bytes with the same markers, whatever else they hold, at every moment; and register
transactions of any kind interleaved with the block's turns, up to its last one, change no byte and no marker. -/
def Obligations.ScansAreHermetic : Prop :=
  (∀ (d n : Nat) (b c : Block d) (img : Nat → Nat → Sample), startAccepted b = true → startAccepted c = true →
    c.alpha = b.alpha → c.width = b.width → c.height = b.height →
    (blockRun img n (startBlock c)).2 = (blockRun img n (startBlock b)).2 ∧
    (blockRun img n (startBlock c)).1.count = (blockRun img n (startBlock b)).1.count ∧
    (blockRun img n (startBlock c)).1.phase = (blockRun img n (startBlock b)).1.phase) ∧
  ∀ (d : Nat) (b : Block d) (img : Nat → Nat → Sample) (turns : List (Option (Bool × BitVec 3 × RegData d))),
    startAccepted b = true →
    (turns.filter Option.isNone).length ≤ b.width.toNat * b.height.toNat * (1 + bpp b.alpha) →
    (mixedRun img turns (startBlock b)).2 = (blockRun img (turns.filter Option.isNone).length (startBlock b)).2

/-! ## Whole-machine rules -/

/-- R20, column "written by": the eleven elements of the block and the operations that may write each. -/
def Obligations.ElementsWrittenOnlyByTheirOperations : Prop :=
  ∀ (i : Instr) (s t : State), exec i s = .next t → i ≠ .reset →
    (t.block.alpha ≠ s.block.alpha → ∃ a, i = .wrMode a) ∧
    (t.block.width ≠ s.block.width → ∃ w, i = .wrWidth w) ∧
    (t.block.height ≠ s.block.height → ∃ h, i = .wrHeight h) ∧
    (t.block.hold ≠ s.block.hold → ∃ a, i = .fetch a) ∧
    (t.block.x ≠ s.block.x ∨ t.block.y ≠ s.block.y → i = .start ∨ i = .wrCtrl 1 ∨ ∃ a, i = .fetch a) ∧
    (t.block.nb ≠ s.block.nb → i = .start ∨ i = .wrCtrl 1 ∨ i = .emit ∨ ∃ a, i = .fetch a) ∧
    (t.block.count ≠ s.block.count → i = .start ∨ i = .wrCtrl 1 ∨ i = .emit) ∧
    (t.block.phase ≠ s.block.phase ∨ t.block.done ≠ s.block.done → i = .start ∨ i = .wrCtrl 1 ∨ i = .emit) ∧
    (t.block.err ≠ s.block.err → i = .start ∨ i = .wrCtrl 1 ∨ (∃ a, i = .wrMode a) ∨ (∃ w, i = .wrWidth w) ∨
      (∃ h, i = .wrHeight h) ∨ i = .illRd ∨ (∃ v, i = .illWrStatus v) ∨ (∃ v, i = .illWrCount v) ∨
      (∃ v, i = .illWrErr v) ∨ (∃ v, i = .illWrUnmapped v) ∨ ∃ idx v, i = .illWrReserved idx v)

/-- R50, R52, R65: only an EMIT writes the output space, only at offset COUNT, and nothing writes the pixel space. Of the model's
own fields: no operation touches the schedule (log entry 2), and only RESET and a FETCH answered from the image draw free
values (log entry 19). -/
def Obligations.MemoriesWrittenOnlyByEmit : Prop :=
  ∀ (i : Instr) (s t : State), exec i s = .next t →
    (∀ a : Nat, i ≠ .emit ∨ a ≠ s.block.count.toNat → Memory.read t.out a = Memory.read s.out a) ∧
    t.pix = s.pix ∧ t.pending = s.pending ∧
    (t.free ≠ s.free → i = .reset ∨ i = .fetch none)

/-- R21, R67: while a scan runs no operation but RESET changes the configuration; and no FETCH or EMIT ever does. -/
def Obligations.ConfigurationFrozenDuringScan : Prop :=
  ∀ (i : Instr) (s t : State), exec i s = .next t → i ≠ .reset →
    s.block.phase = .scan ∨ i = .emit ∨ (∃ a, i = .fetch a) →
    t.block.alpha = s.block.alpha ∧ t.block.width = s.block.width ∧ t.block.height = s.block.height

/-- R64, R140, R193: a register transaction during a scan changes no element but ERR. -/
def Obligations.TransactionsNeverDisturbAScan : Prop :=
  ∀ (we : Bool) (idx : BitVec 3) (wdata : RegData) (s t : State), s.block.phase = .scan →
    exec (decodeRegt we idx wdata) s = .next t → t.block = { s.block with err := t.block.err }

/-- R141, R131, R134: a scan ends only by RESET or by the EMIT of its last byte, and begins only by an accepted START. -/
def Obligations.OnlyTheseEventsStartOrEndAScan : Prop :=
  ∀ (i : Instr) (s t : State), exec i s = .next t →
    (s.block.phase = .scan → t.block.phase = .idle →
      i = .reset ∨ (i = .emit ∧ s.block.nb = 1 ∧ s.block.y = s.block.height ∧ t.block.done = true)) ∧
    (s.block.phase = .idle → t.block.phase = .scan →
      (i = .start ∨ i = .wrCtrl 1) ∧ s.block.width ≠ 0 ∧ s.block.height ≠ 0 ∧ t.block.count = 0 ∧ t.block.done = false)

/-- R24, R33, R138, for every number of dimension bits: in a state that meets the invariants COUNT never wraps, and a FETCH moves
the pixel index by exactly one, inside the grid or to its end mark. -/
def Obligations.CountersNeverWrap : Prop :=
  ∀ (d : Nat) (b : Block d) (p : Sample), BlockInv b →
    (emitEnabled b = true → (emitBlock b).count.toNat = b.count.toNat + 1) ∧
    (fetchEnabled b = true → pixelsFetched (fetchBlock p b) = pixelsFetched b + 1 ∧
      pixelsFetched (fetchBlock p b) ≤ b.width.toNat * b.height.toNat)

/-- R141, R199: with no turn scheduled, and in an idle turn, every element keeps its value for ever. -/
def Obligations.WaitingChangesNothing : Prop :=
  (∀ s : State, s.pending = [] → step s = .next s ∧ ∀ n, core.run n s = .next s) ∧
  ∀ (s : State) (w : StepWord) (rest : List StepWord), s.pending = w :: rest → decode w = .ok .idle →
    step s = .next { s with pending := rest }

/-! ## Encoding, and the step -/

/-- Every well-formed operation, with every operand at every value, decodes from its own word. -/
def Obligations.DecodeAfterEncode : Prop :=
  ∀ i : Instr, WellFormed i = true → decode (encode i) = .ok i

/-- Every word the decoder accepts is a well-formed operation. -/
def Obligations.DecodeGivesWellFormed : Prop :=
  ∀ (w : StepWord) (i : Instr), decode w = .ok i → WellFormed i = true

/-- R85, R150: the word of a register transaction decodes to the operation the table gives it, with every `op` and every
`wdata`. That such a word has class 0 is the model's own (log entry 3). -/
def Obligations.TransactionWordsDecode : Prop :=
  ∀ (op : BitVec 4) (wdata : RegData),
    decode (regtWord op wdata) = .ok (decodeRegt (op.getLsbD 3) (op.extractLsb' 0 3) wdata)

/-- A step runs the decoded operation: the first word of the schedule is taken off, decoded and executed; a word that is none is
refused by name; `withFetchWord` puts a table word there. All of it is the model's own machinery, for which the spec has no rule
(R8 gives the kinds of atomic steps, R13 says that no program is stored): the schedule (log entry 2), the step words and the
refusal of those that are none (log entry 3), the reading of table words (log entry 21), their placing (log entry 23). -/
def Obligations.StepRunsDecodedInstruction : Prop :=
  (∀ (s : State) (w : StepWord) (rest : List StepWord) (i : Instr), s.pending = w :: rest → decode w = .ok i →
    step s = exec i { s with pending := rest }) ∧
  (∀ (s : State) (w : StepWord) (rest : List StepWord) (e : DecodeError), s.pending = w :: rest → decode w = .error e →
    step s = .refused (.undecodable e)) ∧
  ∀ (s : State) (nbits w : Nat) (i : Instr), decodeTableWord nbits w = some i →
    step (s.withFetchWord nbits w) = exec i s

/-- Words written out by hand: `op` and `wdata` from R85, the selector values from R87. Where a step word has them (op or selector
in bits 3:0, a class nibble in bits 7:4, data from bit 8) is the model's own (log entry 3). -/
def Obligations.HandWrittenWordsDecode : Prop :=
  ∀ p ∈ ([(0x000000000001, .rdStatus), (0x000000000007, .illRd), (0x000000000108, .start), (0x00000000010A, .wrMode 1),
      (0x000000FFFF0B, .wrWidth 65535), (0x000000F00C, .wrHeight 240), (0x00000100000B, .illWrReserved 3 65536),
      (0x03000000000B, .illWrReserved 3 0x300000000), (0x00000000000E, .illWrErr 0), (0x000000000014, .fetch none),
      (0x000000000016, .emit)] : List (StepWord × Instr)), decode p.1 = .ok p.2

/-! ## The pins (20_memory.md section 3) -/

/-- R61, R62: the ports offer exactly what the enabled step will take, with coordinates inside the grid; the output port does not
change while no EMIT or RESET happens. -/
def Obligations.PortsShowTheEnabledStep : Prop :=
  (∀ (d : Nat) (b : Block d), BlockInv b →
    (∀ x y, pixPort b = some (x, y) ↔ fetchEnabled b = true ∧ x = b.x ∧ y = b.y) ∧
    (∀ x y, pixPort b = some (x, y) → x.toNat < b.width.toNat ∧ y.toNat < b.height.toNat) ∧
    ((outPort b).isSome = true ↔ b.nb ≠ 0) ∧
    ∀ v last, outPort b = some (v, last) → nextByte b = some v ∧ (last = true ↔ b.nb = 1 ∧ b.y = b.height)) ∧
  ∀ (i : Instr) (s t : State), BlockInv s.block → exec i s = .next t → i ≠ .emit → i ≠ .reset →
    (outPort s.block).isSome = true → outPort t.block = outPort s.block

/-- R61, R62, R64 with the pins of log entry 17: what one edge with `rst = 0` does. Where `pix_ready` and `pix_valid` are 1 a FETCH of
the sample on the pins, where `out_valid` and `out_ready` are 1 an EMIT; with a register transaction at the same edge both happen,
both judged on the state before the edge: the transaction's only effect on the block is on ERR, the rest is the block step's, and
the result is that of the two atomic steps in this order. Where neither pair is 1 the edge is the transaction alone, or nothing. -/
def Obligations.EdgeIsTransactionThenBlockStep : Prop :=
  ∀ (p : PinsIn) (s : State), BlockInv s.block → p.rst = false →
    (∀ i : Instr,
      (i = .fetch (some p.pix) ∧ fetchEnabled s.block = true ∧ p.pixValid = true) ∨
        (i = .emit ∧ emitEnabled s.block = true ∧ p.outReady = true) →
      (p.regValid = false → edge p s = exec i s ∧ ∃ t, exec i s = .next t) ∧
      (p.regValid = true → ∃ u t v : State,
        exec (decodeRegt p.regWe p.regIdx p.regWdata) s = .next u ∧ exec i u = .next t ∧ exec i s = .next v ∧
        edge p s = .next t ∧
        u.block = (regTxn p.regWe p.regIdx p.regWdata s.block).1 ∧
        t.block = { v.block with err := u.block.err })) ∧
    ((fetchEnabled s.block = true → p.pixValid = false) → (emitEnabled s.block = true → p.outReady = false) →
      edge p s = if p.regValid then exec (decodeRegt p.regWe p.regIdx p.regWdata) s else .next s)

/-- R60, R64: while `rst = 1` an edge is RESET alone; an edge with nothing valid, nothing ready changes nothing; a START at an idle
edge starts the scan and no FETCH happens at that edge. -/
def Obligations.EdgeResetAndQuiet : Prop :=
  (∀ (p : PinsIn) (s : State), p.rst = true → edge p s = exec .reset s) ∧
  (∀ (p : PinsIn) (s : State), p.rst = false → p.regValid = false → p.pixValid = false → p.outReady = false →
    edge p s = .next s) ∧
  ∀ (p : PinsIn) (s : State), BlockInv s.block → p.rst = false → p.regValid = true → s.block.phase = .idle →
    edge p s = exec (decodeRegt p.regWe p.regIdx p.regWdata) s

/-! ## The host's side (43_host_contract.md) -/

/-- R175: the consumer that reads the array from the descriptor alone finds the record of pixel (x, y) at
(y * width + x) * stride, and the declared size is the array's length. -/
def Obligations.ConsumerFindsEveryRecord : Prop :=
  ∀ (d : Nat) (b : Block d) (img : Nat → Nat → Sample) (ref : String), startAccepted b = true →
    let n := b.width.toNat * b.height.toNat * (1 + bpp b.alpha)
    let r := blockRun img n (startBlock b)
    let desc := descriptorOf ref r.1
    desc.dataSize = r.2.length ∧ desc.width = b.width.toNat ∧ desc.height = b.height.toNat ∧
    desc.alwaysZero = 0 ∧ stride desc.format = bpp b.alpha ∧
    ∀ x y, x < b.width.toNat → y < b.height.toNat →
      consumerRecord desc (r.2.map Prod.fst) x y = pack b.alpha (img x y)

/-- R177: the text line by line. A line of 16 elements is the indentation (open, N10), the 16 elements and a newline, and the
rest of the text follows; a shorter last line is the indentation and its elements; no element, no line. An element is `0x`, the
digit of the high nibble, the digit of the low nibble, comma, space, the digits upper-case hexadecimal. Around the lines stand
the open texts, and the newline of a partial last line where the parameter asks for it. -/
def Obligations.RenderedArrayLayout : Prop :=
  (∀ (indent newline : List Char) (line rest : List Byte), line.length = 16 →
    renderFrom indent newline 0 (line ++ rest) =
      indent ++ line.flatMap renderByte ++ newline ++ renderFrom indent newline 0 rest) ∧
  (∀ (indent newline : List Char) (line : List Byte), line ≠ [] → line.length < 16 →
    renderFrom indent newline 0 line = indent ++ line.flatMap renderByte) ∧
  (∀ indent newline : List Char, renderFrom indent newline 0 [] = []) ∧
  (∀ v : Byte, ∃ hi lo : Char, renderByte v = ['0', 'x', hi, lo, ',', ' '] ∧
    ("0123456789ABCDEF".toList)[v.toNat / 16]? = some hi ∧ ("0123456789ABCDEF".toList)[v.toNat % 16]? = some lo) ∧
  (∀ v w : Byte, renderByte v = renderByte w → v = w) ∧
  (∀ (indent newline : List Char) (bytes : List Byte), (renderFrom indent newline 0 bytes).length =
    6 * bytes.length + newline.length * (bytes.length / 16) + indent.length * ((bytes.length + 15) / 16)) ∧
  ∀ (e : EmitterParams) (names : Names) (bytes : List Byte), renderArray e names bytes =
    e.prologue names ++ renderFrom e.indent e.newline 0 bytes ++
      (if e.endsPartialLine = true ∧ bytes.length % 16 ≠ 0 then e.newline else []) ++ e.epilogue names

/-- R173 steps (3) to (6), R180, R181, R228: the host's end of a conversion. The artifact is built and written, whole, at the
caller's location exactly when the scan is over, ERR reads 0, COUNT is the buffer's length and the destination is ready; in every
other case there is a failure and no artifact. Over means DONE = 1 or the last marker, which agree in states whose log and flags
agree, since a RESET discards a complete stream too (the model's choice, log entry 26, as is what a host sees of an earlier
scan after a refused START, log entry 27). An input that cannot be read or decoded fails by its name, and nothing happens to machine and artifacts. The four errors
of R181 are the source's. The other failures, scanNotOver, blockFault and countMismatch, have no name in the source: that they
are told apart, their names, and the order ERR before COUNT before the destination are the model's choice (log entry 16). -/
def Obligations.ArtifactIsAllOrNothing : Prop :=
  (∀ (d : Nat) (h : HostParams) (naming : NamingParams) (how : Watch) (dest : Destination) (s : State d) (disk : Disk),
    let r := finishConversion h naming how dest s disk
    let good := scanOver how s = true ∧ regData 6 s.block = 0 ∧ (regData 5 s.block).toNat = (bufferOf s).length
    (∀ a disk', r = .ok (a, disk') ↔
      good ∧ dest = .ready ∧ a = artifactOf h naming s ∧ disk' = disk.put naming.outputLocation a) ∧
    (r = .error .scanNotOver ↔ scanOver how s = false) ∧
    (∀ n, r = .error (.blockFault n) ↔ scanOver how s = true ∧ n ≠ 0 ∧ n = (regData 6 s.block).toNat) ∧
    (r = .error .countMismatch ↔
      scanOver how s = true ∧ regData 6 s.block = 0 ∧ (regData 5 s.block).toNat ≠ (bufferOf s).length) ∧
    (r = .error (.software .outputDirectoryMissing) ↔ good ∧ dest = .directoryMissing) ∧
    (r = .error (.software .ioError) ↔ good ∧ dest = .writeFails)) ∧
  (∀ (d : Nat) (s : State d),
    (scanOver .pollDone s = true ↔ s.block.done = true) ∧
    (scanOver .lastMarker s = true ↔ ∃ sent v, acceptedBytes s = sent ++ [(v, true)]) ∧
    (Inv s → ScanHistory s → scanOver .lastMarker s = scanOver .pollDone s)) ∧
  (∀ img : DecodedImage, decodeInput (.image img) = .ok img) ∧
  ∀ (d : Nat) (h : HostParams) (req : Request) (turns : List PartnerTurn) (w : World d),
    convert h { req with input := .unreadable } turns w = (w, .error (.software .inputNotFound)) ∧
    convert h { req with input := .notAnImage } turns w = (w, .error (.software .decodeError))

/-- R171 to R175, R179, R180, R228: one whole conversion, whatever the other agents do while the host waits, resets included. A
failure leaves every artifact as it was. A success leaves exactly one artifact created or overwritten, at the caller's location,
with the names derived from the naming parameters; its array renders as many bytes as the image's size and tag ask for, its
descriptor carries the decoded image's width, height and tag, and where every pixel was answered from the decoded image the bytes
are `Serialize` of it. Once loaded, the pixel source has a sample for every coordinate of the image. -/
def Obligations.ConversionWritesTheDecodedImage : Prop :=
  (∀ (d : Nat) (h : HostParams) (req : Request) (turns : List PartnerTurn) (w w' : World d) (e : HostFailure),
    convert h req turns w = (w', .error e) → w'.disk = w.disk) ∧
  (∀ (d : Nat) (h : HostParams) (req : Request) (turns : List PartnerTurn) (w w' : World d) (a : Artifact),
    1 ≤ d → Inv w.machine → convert h req turns w = (w', .ok a) →
    ∃ (img : DecodedImage) (bytes : List Byte), req.input = .image img ∧
      w'.disk = w.disk.put req.naming.outputLocation a ∧
      w'.disk.read req.naming.outputLocation = some a ∧
      (∀ l, l ≠ req.naming.outputLocation → w'.disk.read l = w.disk.read l) ∧
      a.names = h.deriveNames req.naming ∧
      a.array = renderArray h.emitter a.names bytes ∧
      bytes.length = img.width * img.height * stride (formatOf img.hasAlpha) ∧
      a.fields = [.number 0, .number img.width, .number img.height, .sizeOfArray a.names.array,
        .tag (tagNumber h.tags (formatOf img.hasAlpha)), .reference a.names.array] ∧
      ((∀ p, PartnerTurn.answer (some p) ∉ turns) → ∀ f : Nat → Nat → Sample,
        (∀ x y, x < img.width → y < img.height → Image.read img.pixels x y = some (f x y)) →
        bytes = serialize f img.width img.height img.hasAlpha)) ∧
  ∀ (d : Nat) (img : DecodedImage) (s : State d) (x y : Nat), x < img.width → y < img.height →
    ∃ p, Image.read (loadImage img s).pix x y = some p
end

