-- ==== Sys2Proof/Laws/State.lean ====
section
/-! SUPPORT. One lemma per field per update of the machine's state and of the block, true by rfl. -/

namespace Sys2Proof.Machine

variable {d : Nat}

@[simp] theorem State.setBlock_block (s : State d) (b : Block d) : (s.setBlock b).block = b := rfl
@[simp] theorem State.setBlock_pix (s : State d) (b : Block d) : (s.setBlock b).pix = s.pix := rfl
@[simp] theorem State.setBlock_out (s : State d) (b : Block d) : (s.setBlock b).out = s.out := rfl
@[simp] theorem State.setBlock_log (s : State d) (b : Block d) : (s.setBlock b).log = s.log := rfl
@[simp] theorem State.setBlock_pending (s : State d) (b : Block d) : (s.setBlock b).pending = s.pending := rfl
@[simp] theorem State.setBlock_free (s : State d) (b : Block d) : (s.setBlock b).free = s.free := rfl

@[simp] theorem State.record_block (s : State d) (e : Event d) : (s.record e).block = s.block := rfl
@[simp] theorem State.record_pix (s : State d) (e : Event d) : (s.record e).pix = s.pix := rfl
@[simp] theorem State.record_out (s : State d) (e : Event d) : (s.record e).out = s.out := rfl
@[simp] theorem State.record_log (s : State d) (e : Event d) : (s.record e).log = s.log ++ [e] := rfl
@[simp] theorem State.record_pending (s : State d) (e : Event d) : (s.record e).pending = s.pending := rfl
@[simp] theorem State.record_free (s : State d) (e : Event d) : (s.record e).free = s.free := rfl

@[simp] theorem State.setPending_block (s : State d) (p : List (StepWord d)) : (s.setPending p).block = s.block := rfl
@[simp] theorem State.setPending_pix (s : State d) (p : List (StepWord d)) : (s.setPending p).pix = s.pix := rfl
@[simp] theorem State.setPending_out (s : State d) (p : List (StepWord d)) : (s.setPending p).out = s.out := rfl
@[simp] theorem State.setPending_log (s : State d) (p : List (StepWord d)) : (s.setPending p).log = s.log := rfl
@[simp] theorem State.setPending_pending (s : State d) (p : List (StepWord d)) : (s.setPending p).pending = p := rfl
@[simp] theorem State.setPending_free (s : State d) (p : List (StepWord d)) : (s.setPending p).free = s.free := rfl

@[simp] theorem State.draw_block (s : State d) : (s.draw).block = s.block := rfl
@[simp] theorem State.draw_pix (s : State d) : (s.draw).pix = s.pix := rfl
@[simp] theorem State.draw_out (s : State d) : (s.draw).out = s.out := rfl
@[simp] theorem State.draw_log (s : State d) : (s.draw).log = s.log := rfl
@[simp] theorem State.draw_pending (s : State d) : (s.draw).pending = s.pending := rfl
@[simp] theorem State.draw_free (s : State d) : (s.draw).free = s.free + 1 := rfl

@[simp] theorem State.outByte_block (s : State d) (v : Byte) (last : Bool) : (s.outByte v last).block = s.block := rfl
@[simp] theorem State.outByte_pix (s : State d) (v : Byte) (last : Bool) : (s.outByte v last).pix = s.pix := rfl
@[simp] theorem State.outByte_out (s : State d) (v : Byte) (last : Bool) : (s.outByte v last).out = Memory.write s.out s.block.count.toNat v := rfl
@[simp] theorem State.outByte_log (s : State d) (v : Byte) (last : Bool) : (s.outByte v last).log = s.log ++ [.sent v last] := rfl
@[simp] theorem State.outByte_pending (s : State d) (v : Byte) (last : Bool) : (s.outByte v last).pending = s.pending := rfl
@[simp] theorem State.outByte_free (s : State d) (v : Byte) (last : Bool) : (s.outByte v last).free = s.free := rfl

@[simp] theorem raise_alpha (e : Cause) (b : Block d) : (raise e b).alpha = b.alpha := rfl
@[simp] theorem raise_width (e : Cause) (b : Block d) : (raise e b).width = b.width := rfl
@[simp] theorem raise_height (e : Cause) (b : Block d) : (raise e b).height = b.height := rfl
@[simp] theorem raise_phase (e : Cause) (b : Block d) : (raise e b).phase = b.phase := rfl
@[simp] theorem raise_done (e : Cause) (b : Block d) : (raise e b).done = b.done := rfl
@[simp] theorem raise_x (e : Cause) (b : Block d) : (raise e b).x = b.x := rfl
@[simp] theorem raise_y (e : Cause) (b : Block d) : (raise e b).y = b.y := rfl
@[simp] theorem raise_nb (e : Cause) (b : Block d) : (raise e b).nb = b.nb := rfl
@[simp] theorem raise_hold (e : Cause) (b : Block d) : (raise e b).hold = b.hold := rfl
@[simp] theorem raise_count (e : Cause) (b : Block d) : (raise e b).count = b.count := rfl
@[simp] theorem raise_err (e : Cause) (b : Block d) : (raise e b).err = b.err ||| (1#3 <<< causeCode e) := rfl

@[simp] theorem fetchBlock_alpha (p : Sample) (b : Block d) : (fetchBlock p b).alpha = b.alpha := rfl
@[simp] theorem fetchBlock_width (p : Sample) (b : Block d) : (fetchBlock p b).width = b.width := rfl
@[simp] theorem fetchBlock_height (p : Sample) (b : Block d) : (fetchBlock p b).height = b.height := rfl
@[simp] theorem fetchBlock_phase (p : Sample) (b : Block d) : (fetchBlock p b).phase = b.phase := rfl
@[simp] theorem fetchBlock_done (p : Sample) (b : Block d) : (fetchBlock p b).done = b.done := rfl
@[simp] theorem fetchBlock_x (p : Sample) (b : Block d) : (fetchBlock p b).x = (nextPos b.width b.x b.y).1 := rfl
@[simp] theorem fetchBlock_y (p : Sample) (b : Block d) : (fetchBlock p b).y = (nextPos b.width b.x b.y).2 := rfl
@[simp] theorem fetchBlock_nb (p : Sample) (b : Block d) : (fetchBlock p b).nb = BitVec.ofNat 2 (bpp b.alpha) := rfl
@[simp] theorem fetchBlock_hold (p : Sample) (b : Block d) : (fetchBlock p b).hold = loadHold (pack b.alpha p) b.hold := rfl
@[simp] theorem fetchBlock_count (p : Sample) (b : Block d) : (fetchBlock p b).count = b.count := rfl
@[simp] theorem fetchBlock_err (p : Sample) (b : Block d) : (fetchBlock p b).err = b.err := rfl

@[simp] theorem Block.afterReset_alpha (d n : Nat) : (Block.afterReset d n).alpha = false := rfl
@[simp] theorem Block.afterReset_width (d n : Nat) : (Block.afterReset d n).width = 0 := rfl
@[simp] theorem Block.afterReset_height (d n : Nat) : (Block.afterReset d n).height = 0 := rfl
@[simp] theorem Block.afterReset_phase (d n : Nat) : (Block.afterReset d n).phase = .idle := rfl
@[simp] theorem Block.afterReset_done (d n : Nat) : (Block.afterReset d n).done = false := rfl
@[simp] theorem Block.afterReset_nb (d n : Nat) : (Block.afterReset d n).nb = 0 := rfl
@[simp] theorem Block.afterReset_count (d n : Nat) : (Block.afterReset d n).count = 0 := rfl
@[simp] theorem Block.afterReset_err (d n : Nat) : (Block.afterReset d n).err = 0 := rfl

@[simp] theorem emitBlock_alpha (b : Block d) : (emitBlock b).alpha = b.alpha := by
  unfold emitBlock; split <;> rfl
@[simp] theorem emitBlock_width (b : Block d) : (emitBlock b).width = b.width := by
  unfold emitBlock; split <;> rfl
@[simp] theorem emitBlock_height (b : Block d) : (emitBlock b).height = b.height := by
  unfold emitBlock; split <;> rfl
@[simp] theorem emitBlock_x (b : Block d) : (emitBlock b).x = b.x := by
  unfold emitBlock; split <;> rfl
@[simp] theorem emitBlock_y (b : Block d) : (emitBlock b).y = b.y := by
  unfold emitBlock; split <;> rfl
@[simp] theorem emitBlock_hold (b : Block d) : (emitBlock b).hold = b.hold := by
  unfold emitBlock; split <;> rfl
@[simp] theorem emitBlock_err (b : Block d) : (emitBlock b).err = b.err := by
  unfold emitBlock; split <;> rfl
@[simp] theorem emitBlock_count (b : Block d) : (emitBlock b).count = b.count + 1 := by
  unfold emitBlock; split <;> rfl
@[simp] theorem emitBlock_nb (b : Block d) : (emitBlock b).nb = b.nb - 1 := by
  unfold emitBlock; split <;> rfl
theorem emitBlock_phase (b : Block d) : (emitBlock b).phase = if lastByte b then .idle else b.phase := by
  unfold emitBlock; split <;> rfl
theorem emitBlock_done (b : Block d) : (emitBlock b).done = if lastByte b then true else b.done := by
  unfold emitBlock; split <;> rfl

end Sys2Proof.Machine
end

