-- ==== Sys2Proof/Machine/Bus.lean ====
section
/-! DEFINITION. The register bus a platform puts in front of the register port: `REG_BUS` and `REG_BASE`, which 00_scope.md rule R7
leaves open, are arguments (R58, R63, D6, U14). What binds every bus is R63: each bus access becomes one `RegRead` or `RegWrite`.
What a bus adds of its own (wait states, byte strobes, errors) is not modelled (log entry 25). -/

namespace Sys2Proof.Machine

variable {d : Nat}

/-- One transaction at the register port: `RegRead(idx)` or `RegWrite(idx, wdata)` (R53, R63, R150). -/
structure RegTxn (d : Nat := Config.dimBits) where
  we : Bool
  idx : BitVec 3
  wdata : RegData d
  deriving DecidableEq, Repr

/-- `REG_BUS`, the bus protocol (R7, D6: open, and byte addressing with it). DESIGN CHOICE for the form, safe (log entry 25). -/
structure RegBus (d : Nat := Config.dimBits) where
  /-- What a base address is on this bus. -/
  Address : Type
  /-- What the host presents on this bus in one access. -/
  Access : Type
  /-- What the host gets back. -/
  Response : Type
  /-- The one transaction that an access is for a block at a base address; none where the access is not the block's. -/
  select : Address → Access → Option (RegTxn d)
  /-- The answer to an access, from the data a read of the block returned. -/
  respond : Access → Option (RegData d) → Response

/-- A bus with the block's place on it: `REG_BUS` and `REG_BASE` (R7, R58). -/
structure BusBinding (d : Nat := Config.dimBits) where
  bus : RegBus d
  base : bus.Address

/-- The transaction of an access, if it is the block's. -/
def busTxn (p : BusBinding d) (a : p.bus.Access) : Option (RegTxn d) :=
  p.bus.select p.base a

/-- One bus access: its transaction, atomic (R8, R63); an access that is not the block's does nothing to the machine. -/
def busAccess (p : BusBinding d) (a : p.bus.Access) (s : State d) : Host.Outcome (State d) Fault Refusal :=
  match busTxn p a with
  | some t => execAt (decodeRegt t.we t.idx t.wdata) s
  | none => .next s

/-- What the host gets back for an access, from the state before it (R63, R150). -/
def busResponse (p : BusBinding d) (a : p.bus.Access) (s : State d) : p.bus.Response :=
  p.bus.respond a ((busTxn p a).bind fun t => (regTxn t.we t.idx t.wdata s.block).2)

end Sys2Proof.Machine
end

