-- ==== Sys2Proof/Laws/Exec.lean ====
section
/-! SUPPORT. Everything one operation, and one step, can do, said once for every DIM_BITS; `exec` and `step` are `execAt` and
`stepAt` at the default. -/

namespace Sys2Proof.Machine

variable {d : Nat}

/-- `exec` is `execAt` at the default DIM_BITS. -/
theorem exec_eq_execAt (i : Instr) (s : State) : exec i s = execAt i s := by
  cases i <;> rfl

/-- `step` is `stepAt` at the default DIM_BITS. -/
theorem step_eq_stepAt (s : State) : step s = stepAt s := by
  simp only [step, stepAt, exec_eq_execAt]
  cases s.pending with
  | nil => rfl
  | cons w rest => cases hw : decode w <;> simp only [hw]

/-- The next states an operation can answer, by what happened. -/
inductive Effect (s : State d) : Instr d → State d → Prop where
  /-- Nothing: a no-op, an idle turn, an offer the block does not take. -/
  | quiet (i : Instr d) : Effect s i s
  /-- A combinational function returned `r`. -/
  | computed (i : Instr d) (r : Result d) : Effect s i (s.record (.computed r))
  /-- A mapped register was read. -/
  | read (i : Instr d) (idx : BitVec 3) : Effect s i (s.readReg idx)
  /-- The unmapped register was read. -/
  | illegalRead : Effect s .illRd ((s.record (.returned 7 0)).setBlock (raise .ill s.block))
  /-- A write or a START was dropped with a fault. -/
  | dropped (i : Instr d) (e : Cause) : Effect s i (s.setBlock (raise e s.block))
  /-- ALPHA was written. -/
  | mode (a : BitVec 1) (h : busy s.block = false) :
      Effect s (.wrMode a) (s.setBlock { s.block with alpha := bitSet a })
  /-- WIDTH was written. -/
  | width (w : Dim d) (h : busy s.block = false) : Effect s (.wrWidth w) (s.setBlock { s.block with width := w })
  /-- HEIGHT was written. -/
  | height (w : Dim d) (h : busy s.block = false) : Effect s (.wrHeight w) (s.setBlock { s.block with height := w })
  /-- A START was accepted. -/
  | started (i : Instr d) (hi : i = .start ∨ i = .wrCtrl 1) (h : startAccepted s.block = true) :
      Effect s i ((s.record .started).setBlock
        { s.block with phase := .scan, done := false, x := 0, y := 0, nb := 0, count := 0 })
  /-- A pixel was fetched: sample `p`, with `free'` the number of free values drawn after it. -/
  | fetched (answer : Option Sample) (p : Sample) (free' : Nat) (h : fetchEnabled s.block = true)
      (hp : pixAnswer answer s = (p, { s with free := free' })) :
      Effect s (.fetch answer)
        ((({ s with free := free' }).record (.fetched s.block.x s.block.y p)).setBlock (fetchBlock p s.block))
  /-- A byte was sent. -/
  | sent (v : Byte) (h : emitEnabled s.block = true) (hv : nextByte s.block = some v) :
      Effect s .emit ((s.outByte v (lastByte s.block)).setBlock (emitBlock s.block))
  /-- RESET. -/
  | reset : Effect s .reset (((s.record .reset).draw).setBlock (Block.afterReset d s.free))

/-- What answering a pixel request leaves: everything but the number of free values. -/
theorem pixAnswer_snd (answer : Option Sample) (s : State d) :
    ∃ free', (pixAnswer answer s).2 = { s with free := free' } := by
  unfold pixAnswer
  split
  · exact ⟨s.free, rfl⟩
  · split
    · exact ⟨s.free, rfl⟩
    · exact ⟨s.free + 1, rfl⟩

theorem start_effect (i : Instr d) (hi : i = .start ∨ i = .wrCtrl 1) (s : State d) : Effect s i s.start := by
  unfold State.start
  split
  · rename_i h
    have h' := h
    simp only [startAccepted, Bool.and_eq_true, Bool.not_eq_true', bne_iff_ne, ne_eq] at h'
    obtain ⟨⟨hb, hw⟩, hh⟩ := h'
    have : startBlock s.block = { s.block with phase := .scan, done := false, x := 0, y := 0, nb := 0, count := 0 } := by
      simp only [startBlock, hb, Bool.false_eq_true, if_false, hw, hh, or_self]
    rw [this]
    exact .started i hi h
  · rename_i h
    unfold startBlock
    split
    · exact .dropped i .busy
    · split
      · exact .dropped i .dim
      · rename_i hb hz
        exfalso
        simp_all [startAccepted, not_or]

/-- The one statement of what `execAt` can answer. -/
theorem execAt_effect {i : Instr d} {s t : State d} (h : execAt i s = .next t) : Effect s i t := by
  cases i with
  | qr5 r => cases h; exact .computed _ _
  | qg6 g => cases h; exact .computed _ _
  | qb5 b => cases h; exact .computed _ _
  | pk565 r5 g6 b5 => cases h; exact .computed _ _
  | split px => cases h; exact .computed _ _
  | packRgb p => cases h; exact .computed _ _
  | packRgba p => cases h; exact .computed _ _
  | next => cases h; exact .computed _ _
  | start => cases h; exact start_effect _ (.inl rfl) s
  | fetch answer =>
    simp only [execAt, execFetch] at h
    split at h
    · rename_i hf
      cases h
      obtain ⟨f, hs⟩ := pixAnswer_snd answer s
      rw [hs]
      exact .fetched answer _ f hf (Prod.ext rfl hs)
    · cases h; exact .quiet _
  | emit =>
    simp only [execAt, execEmit] at h
    split at h
    · cases h; exact .quiet _
    · split at h
      · cases h
      · split at h
        · cases h
        · rename_i hp hb v hv
          cases h
          exact .sent v (by simp_all [emitEnabled]) hv
  | wrCtrl a =>
    simp only [execAt, execWrCtrl] at h
    split at h
    · rename_i ha
      cases h
      simp only [bitSet, beq_iff_eq] at ha
      exact start_effect _ (.inr (by rw [ha])) s
    · cases h; exact .quiet _
  | wrMode a =>
    cases h
    simp only [writeMode, configWrite]
    split
    · exact .dropped _ _
    · rename_i hb; exact .mode a (by simpa using hb)
  | wrWidth w =>
    cases h
    simp only [writeWidth, configWrite]
    split
    · exact .dropped _ _
    · rename_i hb; exact .width w (by simpa using hb)
  | wrHeight w =>
    cases h
    simp only [writeHeight, configWrite]
    split
    · exact .dropped _ _
    · rename_i hb; exact .height w (by simpa using hb)
  | rdCtrl => cases h; exact .read _ _
  | rdStatus => cases h; exact .read _ _
  | rdMode => cases h; exact .read _ _
  | rdWidth => cases h; exact .read _ _
  | rdHeight => cases h; exact .read _ _
  | rdCount => cases h; exact .read _ _
  | rdErr => cases h; exact .read _ _
  | illRd => cases h; exact .illegalRead
  | illWrStatus wdata => cases h; exact .dropped _ _
  | illWrCount wdata => cases h; exact .dropped _ _
  | illWrErr wdata => cases h; exact .dropped _ _
  | illWrUnmapped wdata => cases h; exact .dropped _ _
  | illWrReserved idx wdata => cases h; exact .dropped _ _
  | reset => cases h; exact .reset
  | idle => cases h; exact .quiet _
  | unreachable => cases h

/-- The one statement of what `exec` can answer. -/
theorem exec_effect {i : Instr} {s t : State} (h : exec i s = .next t) : Effect s i t :=
  execAt_effect (exec_eq_execAt i s ▸ h)

/-- The one statement of what a step can answer: nothing scheduled and nothing changed, or the effect of the decoded
operation. -/
theorem stepAt_effect {s t : State d} (h : stepAt s = .next t) :
    (s.pending = [] ∧ t = s) ∨
      ∃ w rest i, s.pending = w :: rest ∧ decode w = .ok i ∧ Effect (s.setPending rest) i t := by
  unfold stepAt at h
  split at h
  · rename_i hp
    cases h
    exact .inl ⟨hp, rfl⟩
  · rename_i w rest hp
    split at h
    · rename_i i hi
      exact .inr ⟨w, rest, i, hp, hi, execAt_effect h⟩
    · cases h

/-- `stepAt_effect` for the step of the default machine. -/
theorem step_effect {s t : State} (h : step s = .next t) :
    (s.pending = [] ∧ t = s) ∨
      ∃ w rest i, s.pending = w :: rest ∧ decode w = .ok i ∧ Effect (s.setPending rest) i t :=
  stepAt_effect (step_eq_stepAt s ▸ h)

/-- What a bus access can do, whatever the bus and the base address: nothing, or what its one transaction does. -/
theorem busAccess_effect {p : BusBinding d} {a : p.bus.Access} {s t : State d} (h : busAccess p a s = .next t) :
    (busTxn p a = none ∧ t = s) ∨ ∃ x, busTxn p a = some x ∧ Effect s (decodeRegt x.we x.idx x.wdata) t := by
  cases hx : busTxn p a <;> simp only [busAccess, hx] at h
  · cases h; exact .inl ⟨rfl, rfl⟩
  · exact .inr ⟨_, rfl, execAt_effect h⟩

end Sys2Proof.Machine
end

