-- ==== Sys2Proof/Laws/PerInstr.lean ====
section
/-! SUPPORT. Facts per operation as syntax: family `EncodedClass`, which class an operation's word belongs to (log entry 3). -/

namespace Sys2Proof.Laws

variable {d : Nat}

@[simp] theorem stepWord_cls (c k : BitVec 4) (p : BitVec (Config.payloadBits d)) : StepWord.cls (stepWord c k p) = c := by
  ext i hi
  simp only [StepWord.cls, stepWord, BitVec.getElem_extractLsb', BitVec.getLsbD_append]
  have h1 : ¬ (4 + i < 4) := by omega
  simp [h1, hi]

@[simp] theorem stepWord_code (c k : BitVec 4) (p : BitVec (Config.payloadBits d)) : StepWord.code (stepWord c k p) = k := by
  ext i hi
  simp only [StepWord.code, stepWord, BitVec.getElem_extractLsb', BitVec.getLsbD_append]
  simp [hi]

@[simp] theorem stepWord_payload (c k : BitVec 4) (p : BitVec (Config.payloadBits d)) :
    StepWord.payload (stepWord c k p) = p := by
  ext i hi
  simp only [StepWord.payload, stepWord, BitVec.getElem_extractLsb', BitVec.getLsbD_append]
  have h1 : ¬ (8 + i < 4) := by omega
  have h2 : ¬ (8 + i - 4 < 4) := by omega
  have h3 : 8 + i - 4 - 4 = i := by omega
  simp only [h1, h2, h3, if_false]
  exact BitVec.getLsbD_eq_getElem hi

namespace EncodedClass

/-- The class nibble of an operation's word: 3 a combinational function, 1 a turn of the pixel source, of the sink or of
nobody, 2 the reset pin, 0 a register transaction. -/
def classOf : Instr → BitVec 4
  | .qr5 _ | .qg6 _ | .qb5 _ | .pk565 _ _ _ | .split _ | .packRgb _ | .packRgba _ | .next => 3
  | .fetch _ | .emit | .idle | .unreachable => 1
  | .reset => 2
  | _ => 0

def Statement (i : Instr) : Prop := (encode i).cls = classOf i

theorem qr5 (r : Byte) : Statement (.qr5 r) := stepWord_cls _ _ _
theorem qg6 (g : Byte) : Statement (.qg6 g) := stepWord_cls _ _ _
theorem qb5 (b : Byte) : Statement (.qb5 b) := stepWord_cls _ _ _
theorem pk565 (r5 : BitVec 5) (g6 : BitVec 6) (b5 : BitVec 5) : Statement (.pk565 r5 g6 b5) := stepWord_cls _ _ _
theorem split (px : BitVec 16) : Statement (.split px) := stepWord_cls _ _ _
theorem packRgb (p : Sample) : Statement (.packRgb p) := stepWord_cls _ _ _
theorem packRgba (p : Sample) : Statement (.packRgba p) := stepWord_cls _ _ _
theorem start : Statement .start := stepWord_cls _ _ _
theorem fetch (answer : Option Sample) : Statement (.fetch answer) := stepWord_cls _ _ _
theorem next : Statement .next := stepWord_cls _ _ _
theorem emit : Statement .emit := stepWord_cls _ _ _
theorem wrCtrl (a : BitVec 1) : Statement (.wrCtrl a) := stepWord_cls _ _ _
theorem wrMode (a : BitVec 1) : Statement (.wrMode a) := stepWord_cls _ _ _
theorem wrWidth (w : Dim) : Statement (.wrWidth w) := stepWord_cls _ _ _
theorem wrHeight (h : Dim) : Statement (.wrHeight h) := stepWord_cls _ _ _
theorem rdCtrl : Statement .rdCtrl := stepWord_cls _ _ _
theorem rdStatus : Statement .rdStatus := stepWord_cls _ _ _
theorem rdMode : Statement .rdMode := stepWord_cls _ _ _
theorem rdWidth : Statement .rdWidth := stepWord_cls _ _ _
theorem rdHeight : Statement .rdHeight := stepWord_cls _ _ _
theorem rdCount : Statement .rdCount := stepWord_cls _ _ _
theorem rdErr : Statement .rdErr := stepWord_cls _ _ _
theorem illRd : Statement .illRd := stepWord_cls _ _ _
theorem illWrStatus (wdata : RegData) : Statement (.illWrStatus wdata) := stepWord_cls _ _ _
theorem illWrCount (wdata : RegData) : Statement (.illWrCount wdata) := stepWord_cls _ _ _
theorem illWrErr (wdata : RegData) : Statement (.illWrErr wdata) := stepWord_cls _ _ _
theorem illWrUnmapped (wdata : RegData) : Statement (.illWrUnmapped wdata) := stepWord_cls _ _ _
theorem illWrReserved (idx : BitVec 3) (wdata : RegData) : Statement (.illWrReserved idx wdata) := stepWord_cls _ _ _
theorem reset : Statement .reset := stepWord_cls _ _ _
theorem idle : Statement .idle := stepWord_cls _ _ _
theorem unreachable : Statement .unreachable := stepWord_cls _ _ _

end EncodedClass

end Sys2Proof.Laws
end

