-- ==== Sys2Proof/Laws/Scan.lean ====
section
/-! SUPPORT. The event log one event at a time, HOLD and NB as a queue (10_state.md rule R23), and the last look of the host. -/

namespace Sys2Proof.Machine

variable {d : Nat}

theorem scanLog_append_one (l : List (Event d)) (e : Event d) :
    scanLog (l ++ [e]) = if e = .started ∨ e = .reset then [] else scanLog l ++ [e] := by
  simp [scanLog]

theorem startedSinceReset_append_one (l : List (Event d)) (e : Event d) :
    startedSinceReset (l ++ [e]) =
      if e = .reset then false else if e = .started then true else startedSinceReset l := by
  simp [startedSinceReset]

@[simp] theorem placesFetched_append_one (l : List (Event d)) (e : Event d) :
    placesFetched (l ++ [e]) = placesFetched l ++ (eventPlace e).toList := by
  cases e <;> simp [placesFetched, eventPlace, List.filterMap_cons]

@[simp] theorem samplesFetched_append_one (l : List (Event d)) (e : Event d) :
    samplesFetched (l ++ [e]) = samplesFetched l ++ (eventSample e).toList := by
  cases e <;> simp [samplesFetched, eventSample, List.filterMap_cons]

@[simp] theorem bytesSent_append_one (l : List (Event d)) (e : Event d) :
    bytesSent (l ++ [e]) = bytesSent l ++ (eventByte e).toList := by
  cases e <;> simp [bytesSent, eventByte, List.filterMap_cons]

theorem bpp_two_or_three (alpha : Bool) : bpp alpha = 2 ∨ bpp alpha = 3 := by
  cases alpha <;> simp [bpp]

/-- What FETCH puts into NB is BPP: two bits hold it. -/
@[simp] theorem bpp_toNat (alpha : Bool) : (BitVec.ofNat 2 (bpp alpha)).toNat = bpp alpha := by
  cases alpha <;> rfl

@[simp] theorem pack_length (alpha : Bool) (p : Sample) : (pack alpha p).length = bpp alpha := by
  cases alpha <;> rfl

/-- No byte pending, empty queue. -/
theorem queue_of_nb_zero {b : Block d} (h : b.nb = 0) : queue b = [] := by
  cases ha : b.alpha <;> simp [queue, h, ha, bpp]

/-- FETCH fills the queue with the record. -/
theorem queue_fetchBlock (p : Sample) (b : Block d) : queue (fetchBlock p b) = pack b.alpha p := by
  cases ha : b.alpha <;> simp [queue, ha, bpp, pack, packRgb, packRgba, loadHold]

/-- The host's last look changes nothing of the block. -/
@[simp] theorem finalReads_block (how : Watch) (s : State d) : (finalReads how s).block = s.block := by
  cases how <;> simp only [finalReads] <;> split <;> rfl

end Sys2Proof.Machine
end

