-- ==== Sys2Proof/Tests/Slice0.lean ====
section
/-! SUPPORT. Tests of the model against 95_test_vectors.md and the encodings of 30_encoding.md, the smoke test of WellFormed, and
for each statement with hypotheses a state and operands that meet them. -/

namespace Sys2Proof.Tests

open Sys2Proof.Machine Sys2Proof.Safety

/-! ## Small states -/

/-- Idle, 2 by 1, no alpha: program P1 after step 4, with X, Y, HOLD set to 0. -/
def idleBlock : Block 16 :=
  { alpha := false, width := 2, height := 1, phase := .idle, done := false, x := 0, y := 0, nb := 0, hold := ⟨0, 0, 0⟩,
    count := 0, err := 0 }

/-- P1 after step 5: the scan has begun. -/
def scanBlock : Block 16 := { idleBlock with phase := .scan }

/-- P1 after step 7: the first pixel fetched. -/
def pendBlock : Block 16 := { scanBlock with x := 1, nb := 2, hold := ⟨0xF8, 0x00, 0⟩ }

/-- P1 after step 11 (V-O1): only the last byte remains. -/
def lastBlock : Block 16 := { scanBlock with x := 0, y := 1, nb := 1, hold := ⟨0x07, 0xE0, 0⟩, count := 3 }

/-- P1 after step 12: the scan has ended. -/
def doneBlock : Block 16 := { lastBlock with phase := .idle, done := true, nb := 0, count := 4 }

/-- The image of V-S1. -/
def image : Image := [[⟨255, 0, 0, 128⟩, ⟨0, 255, 0, 255⟩]]

/-- A state around a block, with the image of V-S1 and nothing else. -/
def around (b : Block 16) : State :=
  { block := b, pix := image, out := [], log := [], pending := [], free := 0 }

/-- The events of P1 from its START to step 11. -/
def lastLog : List Event :=
  [.reset, .started, .fetched 0 0 ⟨255, 0, 0, 128⟩, .sent 0xF8 false, .sent 0x00 false, .fetched 1 0 ⟨0, 255, 0, 255⟩,
    .sent 0x07 false]

/-- The machine of P1 after step 11. -/
def lastState : State := { around lastBlock with out := [(0, 0xF8), (1, 0x00), (2, 0x07)], log := lastLog }

/-- The machine of P1 after step 5. -/
def scanState : State := { around scanBlock with log := [.reset, .started] }

/-- The block of an outcome. -/
def blockAfter : Host.Outcome State Fault Refusal → Option (Block 16)
  | .next t => some t.block
  | _ => none

/-- The last event of an outcome. -/
def lastEvent : Host.Outcome State Fault Refusal → Option Event
  | .next t => t.log.getLast?
  | _ => none

/-- The output memory of an outcome. -/
def outAfter : Host.Outcome State Fault Refusal → Option Memory
  | .next t => some t.out
  | _ => none

/-! ## WellFormed: an ill-formed term for each check -/

/-- The write of CTRL with START = 1 is the row START (R85). -/
theorem test_wrCtrl_one_is_not_wellFormed : WellFormed (d := 16) (.wrCtrl 1) = false := by decide
/-- ILL.WR by a reserved bit is about the writable registers only (R162): 1 is STATUS. -/
theorem test_reserved_write_of_status_is_not_wellFormed : WellFormed (d := 16) (.illWrReserved 1 2) = false := by decide
/-- ILL.WR by a reserved bit needs one: 65535 has none for WIDTH (V-R7). -/
theorem test_reserved_write_without_reserved_bit_is_not_wellFormed : WellFormed (d := 16) (.illWrReserved 3 65535) = false := by decide
theorem test_reserved_write_is_wellFormed : WellFormed (d := 16) (.illWrReserved 3 65536) = true := by decide

/-! ## Decode: words written out by hand, one per constructor (R85; class nibble and payload from log entry 3) -/

theorem test_decode_qr5 : decode (d := 16) 0x00000000C830 = .ok (.qr5 200) := by rfl
theorem test_decode_qg6 : decode (d := 16) 0x000000006431 = .ok (.qg6 100) := by rfl
theorem test_decode_qb5 : decode (d := 16) 0x000000003232 = .ok (.qb5 50) := by rfl
theorem test_decode_pk565 : decode (d := 16) 0x000000CB2633 = .ok (.pk565 25 25 6) := by rfl
theorem test_decode_split : decode (d := 16) 0x000000CB2634 = .ok (.split 0xCB26) := by rfl
theorem test_decode_packRgb : decode (d := 16) 0x008032_64C835 = .ok (.packRgb ⟨200, 100, 50, 128⟩) := by rfl
theorem test_decode_packRgba : decode (d := 16) 0x008032_64C836 = .ok (.packRgba ⟨200, 100, 50, 128⟩) := by rfl
theorem test_decode_next : decode (d := 16) 0x000000000037 = .ok .next := by rfl
theorem test_decode_start : decode (d := 16) 0x000000000108 = .ok .start := by rfl
theorem test_decode_fetch_image : decode (d := 16) 0x000000000015 = .ok (.fetch none) := by rfl
theorem test_decode_fetch_answer : decode (d := 16) 0x018032_64C814 = .ok (.fetch (some ⟨200, 100, 50, 128⟩)) := by rfl
theorem test_decode_emit : decode (d := 16) 0x000000000017 = .ok .emit := by rfl
theorem test_decode_wrCtrl : decode (d := 16) 0x000000000008 = .ok (.wrCtrl 0) := by rfl
theorem test_decode_wrMode : decode (d := 16) 0x00000000010A = .ok (.wrMode 1) := by rfl
theorem test_decode_wrWidth : decode (d := 16) 0x00000000020B = .ok (.wrWidth 2) := by rfl
theorem test_decode_wrHeight : decode (d := 16) 0x00000000F00C = .ok (.wrHeight 240) := by rfl
theorem test_decode_rdCtrl : decode (d := 16) 0x000000000000 = .ok .rdCtrl := by rfl
theorem test_decode_rdStatus : decode (d := 16) 0x000000000001 = .ok .rdStatus := by rfl
theorem test_decode_rdMode : decode (d := 16) 0x000000000002 = .ok .rdMode := by rfl
theorem test_decode_rdWidth : decode (d := 16) 0x000000000003 = .ok .rdWidth := by rfl
theorem test_decode_rdHeight : decode (d := 16) 0x000000000004 = .ok .rdHeight := by rfl
theorem test_decode_rdCount : decode (d := 16) 0x000000000005 = .ok .rdCount := by rfl
theorem test_decode_rdErr : decode (d := 16) 0x000000000006 = .ok .rdErr := by rfl
theorem test_decode_illRd : decode (d := 16) 0x000000000007 = .ok .illRd := by rfl
theorem test_decode_illWrStatus : decode (d := 16) 0x000000000009 = .ok (.illWrStatus 0) := by rfl
theorem test_decode_illWrCount : decode (d := 16) 0x00000000000D = .ok (.illWrCount 0) := by rfl
theorem test_decode_illWrErr : decode (d := 16) 0x00000000000E = .ok (.illWrErr 0) := by rfl
theorem test_decode_illWrUnmapped : decode (d := 16) 0x00000000000F = .ok (.illWrUnmapped 0) := by rfl
/-- V-F16: the highest reserved bits are checked. -/
theorem test_decode_illWrReserved : decode (d := 16) 0x03000000000B = .ok (.illWrReserved 3 0x300000000) := by rfl
theorem test_decode_reset : decode (d := 16) 0x000000000021 = .ok .reset := by rfl
theorem test_decode_idle : decode (d := 16) 0x000000000010 = .ok .idle := by rfl
theorem test_decode_unreachable : decode (d := 16) 0x000000000012 = .ok .unreachable := by rfl
/-- The data of a read is ignored (R85). -/
theorem test_decode_read_ignores_data : decode (d := 16) 0x0000FFFFFF03 = .ok .rdWidth := by rfl
/-- Words of the model's own encoding that are none are refused by name. -/
theorem test_decode_rejects : decode (d := 16) 0x40 = .error .unknownClass ∧ decode (d := 16) 0x040000000003 = .error .strayBits ∧
    decode (d := 16) 0x18 = .error .badSelector ∧ decode (d := 16) 0x20 = .error .badPin ∧ decode (d := 16) 0x38 = .error .badFunction := by
  exact ⟨rfl, rfl, rfl, rfl, rfl⟩
/-- The row WR.MODE of opcode_table.json: bits 3:0 are 10. -/
theorem test_table_word_wrMode : decodeTableWord 8 10 = some (.wrMode 0) := by rfl
/-- Round trip at the corners of the operand ranges. -/
theorem test_encode_roundTrip : decode (d := 16) (encode (.pk565 31 0 1)) = .ok (.pk565 31 0 1) ∧
    decode (d := 16) (encode (.fetch (some ⟨1, 2, 3, 255⟩))) = .ok (.fetch (some ⟨1, 2, 3, 255⟩)) ∧
    decode (d := 16) (encode (.wrWidth 65535)) = .ok (.wrWidth 65535) ∧
    decode (d := 16) (encode (.illWrReserved 4 0x200000000)) = .ok (.illWrReserved 4 0x200000000) := by
  exact ⟨rfl, rfl, rfl, rfl⟩

/-! ## The pixel packer: V-Q, V-P, V-K -/

theorem test_qr5_vectors : [0, 7, 8, 247, 248, 255].map qr5 = [0, 0, 1, 30, 31, 31] := by decide
theorem test_qg6_vectors : [3, 4, 127, 251, 252, 255].map qg6 = [0, 1, 31, 62, 63, 63] := by decide
theorem test_qb5_vectors : [7, 15, 16, 127, 128, 255].map qb5 = [0, 1, 2, 15, 16, 31] := by decide
/-- R114's example and the single fields at their maximum. -/
theorem test_pk565_fields : pk565 25 25 6 = 0xCB26 ∧ pk565 31 0 0 = 0xF800 ∧ pk565 0 63 0 = 0x07E0 ∧ pk565 0 0 31 = 0x001F := by
  decide
/-- V-P16 to V-P18. -/
theorem test_pix16_vectors : pix16 ⟨247, 251, 247, 0⟩ = 0xF7DE ∧ pix16 ⟨18, 52, 86, 0⟩ = 0x11AA ∧
    pix16 ⟨171, 205, 239, 0⟩ = 0xAE7D := by decide
theorem test_split_vectors : (highByte 0xCB26, lowByte 0xCB26) = (0xCB, 0x26) ∧ (highByte 0x07E0, lowByte 0x07E0) = (0x07, 0xE0) := by
  decide
/-- V-P21 to V-P24: where the green field splits. -/
theorem test_packRgb_green_split : [4, 32, 28, 224].map (fun g => packRgb ⟨0, g, 0, 0⟩) =
    [[0x00, 0x20], [0x01, 0x00], [0x00, 0xE0], [0x07, 0x00]] := by decide
/-- V-K10: alpha is ignored in no-alpha mode. -/
theorem test_packRgb_ignores_alpha : packRgb ⟨18, 52, 86, 0⟩ = [0x11, 0xAA] ∧ packRgb ⟨18, 52, 86, 255⟩ = [0x11, 0xAA] := by decide
/-- V-K7, V-K9, V-K11. -/
theorem test_packRgba_vectors : packRgba ⟨8, 4, 8, 1⟩ = [0x08, 0x21, 0x01] ∧ packRgba ⟨18, 52, 86, 0⟩ = [0x11, 0xAA, 0x00] ∧
    packRgba ⟨171, 205, 239, 127⟩ = [0xAE, 0x7D, 0x7F] := by decide
/-- QR5 run on its own returns 25 for 200 (R111). -/
theorem test_exec_qr5 : lastEvent (exec (.qr5 200) (around idleBlock)) = some (.computed (.r5 25)) := by decide

/-! ## The serializer: P1, P5, V-N, V-R11 -/

/-- V-R11: START from idle with DONE = 1. -/
theorem test_start_from_done : blockAfter (exec .start (around doneBlock)) =
    some { scanBlock with hold := ⟨0x07, 0xE0, 0⟩ } := by decide
/-- V-F4: START while a scan runs. -/
theorem test_start_while_busy : blockAfter (exec .start (around pendBlock)) = some { pendBlock with err := 2 } := by decide
/-- P1 step 7. -/
theorem test_fetch_first_pixel : blockAfter (exec (.fetch none) (around scanBlock)) = some pendBlock := by decide
/-- P5 step 25: lane b2 keeps its stale value in a no-alpha scan; V-N4: width 1, every FETCH changes the row. -/
theorem test_fetch_keeps_stale_lane :
    blockAfter (exec (.fetch (some ⟨18, 52, 86, 9⟩))
      (around { scanBlock with width := 1, height := 2, hold := ⟨0x08, 0x21, 0x01⟩ })) =
    some { scanBlock with width := 1, height := 2, hold := ⟨0x11, 0xAA, 0x01⟩, nb := 2, y := 1 } := by decide
/-- V-N6 and V-N7: the largest image, the widest row. -/
theorem test_next_at_the_edges : nextPos (65535 : BitVec 16) 65534 65534 = (0, 65535) ∧
    nextPos (65535 : BitVec 16) 65533 0 = (65534, 0) := by decide
theorem test_exec_next : lastEvent (exec .next (around scanBlock)) = some (.computed (.position 1 0)) := by decide
/-- P1 step 12: the last byte ends the scan and is marked. -/
theorem test_emit_last : blockAfter (exec .emit lastState) = some doneBlock ∧
    lastEvent (exec .emit lastState) = some (.sent 0xE0 true) := by decide
/-- P2 step 9: in alpha mode the third byte of a record is alpha, stored at offset 2. -/
theorem test_emit_alpha_lane : outAfter (exec .emit (around
    { pendBlock with alpha := true, nb := 1, hold := ⟨0xF8, 0x00, 0x80⟩, count := 2 })) = some [(2, 0x80)] := by decide
/-- An acceptance with no byte offered changes nothing (R62). -/
theorem test_emit_nothing_offered : blockAfter (exec .emit (around scanBlock)) = some scanBlock := by decide
/-- V-S3: the closed form of a 2 by 2 image is row-major. -/
theorem test_serialize_row_major :
    serialize (fun x y => (Image.read [[⟨255, 0, 0, 0⟩, ⟨0, 255, 0, 0⟩], [⟨0, 0, 255, 0⟩, ⟨255, 255, 255, 0⟩]] x y).getD
      ⟨0, 0, 0, 0⟩) 2 2 false = [0xF8, 0x00, 0x07, 0xE0, 0x00, 0x1F, 0xFF, 0xFF] := by decide
/-- V-S1, ALPHA = 1: the block run by itself sends the stream, marks the last byte and counts 6. -/
theorem test_blockRun_example2 :
    (blockRun (fun x y => (Image.read image x y).getD ⟨0, 0, 0, 0⟩) 8 (startBlock { idleBlock with alpha := true })).2 =
    [(0xF8, false), (0x00, false), (0x80, false), (0x07, false), (0xE0, false), (0xFF, true)] := by decide
/-- (idle) while a byte is pending: the block waits. -/
theorem test_idle_waits : blockAfter (exec .idle (around pendBlock)) = some pendBlock := by decide
theorem test_unreachable_refused : exec .unreachable (around scanBlock) = .refused .unreachableSelector := rfl

/-! ## Registers: V-R, V-F -/

theorem test_wrCtrl_zero_while_busy : blockAfter (exec (.wrCtrl 0) (around pendBlock)) = some pendBlock := by decide
/-- V-F1: START right after RESET. -/
theorem test_wrCtrl_one_zero_dimensions : blockAfter (exec (.wrCtrl 1) (around { idleBlock with width := 0, height := 0 })) =
    some { idleBlock with width := 0, height := 0, err := 4 } := by decide
/-- V-R6. -/
theorem test_wrMode_idle : blockAfter (exec (.wrMode 1) (around idleBlock)) = some { idleBlock with alpha := true } := by decide
/-- V-F6: busy, although the value is the one held. -/
theorem test_wrMode_busy : blockAfter (exec (.wrMode 0) (around scanBlock)) = some { scanBlock with err := 2 } := by decide
/-- V-R8: zero is stored without a fault. -/
theorem test_wrWidth_zero : blockAfter (exec (.wrWidth 0) (around idleBlock)) = some { idleBlock with width := 0 } := by decide
/-- V-F7. -/
theorem test_wrHeight_busy : blockAfter (exec (.wrHeight 7) (around scanBlock)) = some { scanBlock with err := 2 } := by decide
/-- V-R9. -/
theorem test_wrHeight_idle : blockAfter (exec (.wrHeight 240) (around idleBlock)) = some { idleBlock with height := 240 } := by decide
theorem test_rdCtrl : lastEvent (exec .rdCtrl (around scanBlock)) = some (.returned 0 0) := by decide
/-- V-R3, V-R4. -/
theorem test_rdStatus : lastEvent (exec .rdStatus (around scanBlock)) = some (.returned 1 1) ∧
    lastEvent (exec .rdStatus (around doneBlock)) = some (.returned 1 2) := by decide
theorem test_rdMode : lastEvent (exec .rdMode (around { idleBlock with alpha := true })) = some (.returned 2 1) := by decide
/-- V-R13. -/
theorem test_rdWidth : lastEvent (exec .rdWidth (around scanBlock)) = some (.returned 3 2) := by decide
theorem test_rdHeight : lastEvent (exec .rdHeight (around scanBlock)) = some (.returned 4 1) := by decide
/-- P1 step 14. -/
theorem test_rdCount : lastEvent (exec .rdCount (around doneBlock)) = some (.returned 5 4) := by decide
/-- P4 step 14. -/
theorem test_rdErr : lastEvent (exec .rdErr (around { pendBlock with err := 6 })) = some (.returned 6 6) := by decide
/-- V-F13. -/
theorem test_illRd : blockAfter (exec .illRd (around idleBlock)) = some { idleBlock with err := 1 } ∧
    lastEvent (exec .illRd (around idleBlock)) = some (.returned 7 0) := by decide
theorem test_illWrStatus : blockAfter (exec (.illWrStatus 0) (around scanBlock)) = some { scanBlock with err := 1 } := by decide
theorem test_illWrCount : blockAfter (exec (.illWrCount 0) (around doneBlock)) = some { doneBlock with err := 1 } := by decide
/-- V-F12: a write of 0 to ERR does not clear it. -/
theorem test_illWrErr : blockAfter (exec (.illWrErr 0) (around { idleBlock with err := 6 })) = some { idleBlock with err := 7 } := by
  decide
theorem test_illWrUnmapped : blockAfter (exec (.illWrUnmapped 0) (around idleBlock)) = some { idleBlock with err := 1 } := by decide
/-- V-F10: E_ILL only, not E_BUSY. -/
theorem test_illWrReserved : blockAfter (exec (.illWrReserved 3 65536) (around scanBlock)) = some { scanBlock with err := 1 } := by
  decide
/-- V-F9: `WR CTRL, 3` with WIDTH = 0 raises E_ILL only. -/
theorem test_txn_ctrl_three : (regTxn true 0 3 { idleBlock with width := 0 }).1 = { idleBlock with width := 0, err := 1 } := by decide
/-- V-F15 and P6 step 9: RESET in mid-scan. -/
theorem test_reset_clears : (blockAfter (exec .reset (around { pendBlock with err := 7 }))).map
    (fun b => (b.phase, b.done, b.nb, b.count, b.err, b.width, b.height)) = some (.idle, false, 0, 0, 0, 0, 0) := rfl

/-! ## The step -/

/-- From reset with nothing scheduled nothing happens. -/
theorem test_step_waits : step State.reset = .next State.reset := rfl
/-- The table word of WR.WIDTH runs as the first operation after reset. -/
theorem test_step_runs_table_word : step (State.reset.withFetchWord 8 0xB) = exec (.wrWidth 0) State.reset := rfl

/-! ## Pins: V-O1, V-O2 -/

/-- A START presented at the edge of the last EMIT. -/
def startPins : PinsIn :=
  { rst := false, regValid := true, regWe := true, regIdx := 0, regWdata := 1, pixValid := false, pix := ⟨0, 0, 0, 0⟩,
    outReady := true }

theorem test_edge_start_at_last_emit : blockAfter (edge startPins lastState) = some { doneBlock with err := 2 } := by decide
theorem test_edge_status_at_last_emit :
    regRdata { startPins with regWe := false, regIdx := 1 } lastState = some 1 := by decide

/-- FETCH at an edge: the pixel on the pins is taken. -/
theorem test_edge_fetch : blockAfter (edge { startPins with regValid := false, pixValid := true, pix := ⟨255, 0, 0, 128⟩ }
    (around scanBlock)) = some pendBlock := by decide
/-- While `rst = 1` a read presented is none. -/
theorem test_rdata_under_reset : regRdata { startPins with rst := true, regWe := false, regIdx := 1 } lastState = none := by decide

/-! ## The host: V-T1, V-T3, and the conversion of V-S1 -/

/-- A host's open parameters, for the tests. -/
def hostParams : HostParams where
  tags := ⟨0, 1, by decide⟩
  emitter := ⟨fun _ => ['<'], fun _ => ['>'], ['_'], ['|'], true⟩
  deriveNames := fun n => ⟨n.assetLabel, n.assetLabel⟩

theorem test_renderArray_four_bytes :
    renderArray hostParams.emitter ⟨"a", "a"⟩ [0xF8, 0x00, 0x07, 0xE0] = "<_0xF8, 0x00, 0x07, 0xE0, |>".toList := by decide
/-- Where the newline and the indentation stand: after the 16th element, before the 17th. -/
theorem test_renderFrom_line_break : renderFrom ['_'] ['|'] 15 [0x0A, 0xFF] = "0x0A, |_0xFF, ".toList := by decide
theorem test_descriptor_of_done : descriptorFields hostParams.tags (descriptorOf "a" doneBlock) =
    [.number 0, .number 2, .number 1, .sizeOfArray "a", .tag 0, .reference "a"] := by decide

/-- The image of V-S1 as the decoder reports it, without its alpha. -/
def decoded : DecodedImage := ⟨2, 1, false, image, by decide⟩

/-- A caller's request for it. -/
def request : Request := ⟨⟨"theme", "a", "out"⟩, .image decoded, .ready, .lastMarker⟩

/-- Willing partners for a scan of two pixels without alpha. -/
def willing : List PartnerTurn := [.answer none, .accept, .accept, .poll, .answer none, .accept, .nothing, .accept]

/-- What a conversion gave, without the machine. -/
def conversion (turns : List PartnerTurn) (b : Block 16) : Disk × Except HostFailure Artifact :=
  ((convert hostParams request turns ⟨around b, []⟩).1.disk, (convert hostParams request turns ⟨around b, []⟩).2)

/-- V-S1 and R173 from (1) to (6). -/
theorem test_convert : (conversion willing { idleBlock with width := 9 }).2 =
    .ok ⟨⟨"a", "a"⟩, "<_0xF8, 0x00, 0x07, 0xE0, |>".toList,
      [.number 0, .number 2, .number 1, .sizeOfArray "a", .tag 0, .reference "a"]⟩ := by rfl
/-- Cut short, or reset: nothing is written (R228). -/
theorem test_convert_cut_short : conversion (willing.take 7) idleBlock = ([], .error .scanNotOver) ∧
    conversion (willing ++ [.reset]) idleBlock = ([], .error .scanNotOver) := ⟨by rfl, by rfl⟩

/-! ## Witnesses: states and operands that meet the hypotheses of each statement that has some -/

theorem scanBlock_inv : BlockInv scanBlock :=
  ⟨by decide, by decide, by decide, by decide, by decide, by decide⟩
theorem pendBlock_inv : BlockInv pendBlock :=
  ⟨by decide, by decide, by decide, by decide, by decide, by decide⟩
theorem lastBlock_inv : BlockInv lastBlock :=
  ⟨by decide, by decide, by decide, by decide, by decide, by decide⟩
theorem idleBlock_inv : BlockInv idleBlock :=
  ⟨by decide, by decide, by decide, by decide, by decide, by decide⟩
theorem doneBlock_inv : BlockInv doneBlock :=
  ⟨by decide, by decide, by decide, by decide, by decide, by decide⟩
theorem lastState_inv : Inv lastState := ⟨lastBlock_inv, by decide⟩
theorem scanState_inv : Inv scanState := ⟨scanBlock_inv, by decide⟩

/-- A check by evaluation of "no byte of these is marked last". -/
theorem notLast_of_all {l : List (Byte × Bool)} (h : l.all (fun q => !q.2) = true) : ∀ q ∈ l, q.2 = false := by
  simpa [List.all_eq_true] using h

theorem lastState_history : ScanHistory lastState :=
  ⟨by decide, by decide, by decide, fun _ => notLast_of_all (by decide), by decide, nofun, nofun⟩
theorem scanState_history : ScanHistory scanState :=
  ⟨by decide, by decide, by decide, fun _ => notLast_of_all (by decide), by decide, nofun, nofun⟩

theorem witness_ChannelsMonotonicAndIndependent : (7 : Byte).toNat ≤ (8 : Byte).toNat ∧ 10 < 11 ∧ (4 < 5 ∨ 11 ≤ 4) ∧
    ((11 : Nat) < 5 ∨ 11 ≤ 11) ∧ 5 ≤ 5 := by decide
theorem witness_StartCases_busy : (around pendBlock).block.phase = .scan ∧ startPins.regValid = true ∧ startPins.regWe = true ∧
    startPins.regIdx = 0 ∧ startPins.regWdata = 1 := by decide
theorem witness_StartCases_edge : BlockInv scanState.block ∧ scanState.block.phase = .scan ∧ startPins.rst = false ∧
    startPins.regValid = true ∧ startPins.regWe = true ∧ startPins.regIdx = 0 ∧ startPins.regWdata = 1 :=
  ⟨scanBlock_inv, by decide⟩
theorem witness_StartCases_dim_width : (around { idleBlock with width := 0 }).block.phase = .idle ∧
    (around { idleBlock with width := 0 }).block.width = 0 := by decide
theorem witness_StartCases_dim_height : (around { idleBlock with height := 0 }).block.phase = .idle ∧
    (around { idleBlock with height := 0 }).block.height = 0 := by decide
theorem witness_StartCases_accepted : (around idleBlock).block.phase = .idle ∧ (around idleBlock).block.width ≠ 0 ∧
    (around idleBlock).block.height ≠ 0 := by decide
theorem witness_StartCases_after_reset : ∃ t u : State, exec .reset (around pendBlock) = .next t ∧ exec .start t = .next u :=
  ⟨_, _, rfl, rfl⟩
theorem witness_FetchLoadsRecord_image : (around scanBlock).block.phase = .scan ∧ (around scanBlock).block.nb = 0 ∧
    Image.read (around scanBlock).pix (around scanBlock).block.x.toNat (around scanBlock).block.y.toNat =
      some ⟨255, 0, 0, 128⟩ := by decide
theorem witness_FetchLoadsRecord_answer : (around { scanBlock with x := 1, alpha := true }).block.phase = .scan ∧
    (around { scanBlock with x := 1, alpha := true }).block.nb = 0 ∧
    (some ⟨1, 2, 3, 4⟩ : Option Sample) = some ⟨1, 2, 3, 4⟩ := by decide
theorem witness_FetchOutsideImageCompletes : (around { scanBlock with height := 2, y := 1 }).block.phase = .scan ∧
    (around { scanBlock with height := 2, y := 1 }).block.nb = 0 ∧
    Image.read (around { scanBlock with height := 2, y := 1 }).pix 0 1 = none := by decide
theorem witness_OffersNotTakenChangeNothing : ¬((around pendBlock).block.phase = .scan ∧ (around pendBlock).block.nb = 0) ∧
    ¬((around idleBlock).block.phase = .scan ∧ (around idleBlock).block.nb = 0) ∧ (around scanBlock).block.nb = 0 := by decide
theorem witness_NextIsScanOrderSuccessor : (65534 : BitVec 16).toNat < (65535 : BitVec 16).toNat ∧
    (65534 : BitVec 16).toNat + 1 < 2 ^ 16 := by decide
theorem witness_EmitSendsNextByte_last : lastState.block.phase = .scan ∧ lastState.block.nb ≠ 0 ∧
    lastState.block.nb.toNat ≤ (if lastState.block.alpha then 3 else 2) ∧
    (0xE0 : Byte) = (if lastState.block.nb.toNat = (if lastState.block.alpha then 3 else 2) then lastState.block.hold.b0
      else if lastState.block.nb.toNat + 1 = (if lastState.block.alpha then 3 else 2) then lastState.block.hold.b1
      else lastState.block.hold.b2) ∧
    true = (lastState.block.nb == 1 && lastState.block.y == lastState.block.height) := by decide
/-- The clauses of the lane: NB = BPP sends b0, NB = BPP - 1 sends b1, the third byte of an alpha record b2. -/
theorem witness_EmitSendsNextByte_lanes : ∀ nb ∈ [(3 : BitVec 2), 2, 1],
    (around { pendBlock with alpha := true, nb := nb, hold := ⟨0xF8, 0x00, 0x80⟩ }).block.phase = .scan ∧ nb ≠ 0 ∧
    nb.toNat ≤ 3 ∧
    (if nb = 3 then (0xF8 : Byte) else if nb = 2 then 0x00 else 0x80) =
      (if nb.toNat = 3 then (0xF8 : Byte) else if nb.toNat + 1 = 3 then 0x00 else 0x80) := by decide
theorem witness_EmitStoresOneByteAtCount : (∃ t, exec .emit (around pendBlock) = .next t) ∧
    emitEnabled (around pendBlock).block = true ∧ nextByte (around pendBlock).block = some 0xF8 :=
  ⟨⟨_, rfl⟩, by decide, by decide⟩
theorem witness_StopsOnlyOutsideInvariant_selector : (around { idleBlock with nb := 1 }).block.phase = .idle ∧
    (around { idleBlock with nb := 1 }).block.nb ≠ 0 := by decide
theorem witness_StopsOnlyOutsideInvariant_lane : (around { scanBlock with nb := 3 }).block.phase = .scan ∧
    (if (around { scanBlock with nb := 3 }).block.alpha then 3 else 2) < (around { scanBlock with nb := 3 }).block.nb.toNat := by
  decide
theorem witness_StopsOnlyOutsideInvariant_completes : BlockInv (around pendBlock).block ∧ (.emit : Instr) ≠ .unreachable :=
  ⟨pendBlock_inv, by decide⟩
theorem witness_SelectorTable : (idleBlock.phase = .idle ∧ idleBlock.nb = 0) ∧
    (({ idleBlock with nb := 1 } : Block 16).phase = .idle ∧ ({ idleBlock with nb := 1 } : Block 16).nb ≠ 0) ∧
    (scanBlock.phase = .scan ∧ scanBlock.nb = 0) ∧ pendBlock.phase = .scan ∧ pendBlock.nb ≠ 0 := by decide
theorem witness_OneBlockStepEnabled_fetch : BlockInv scanBlock ∧ scanBlock.phase = .scan ∧ fetchEnabled scanBlock = true :=
  ⟨scanBlock_inv, by decide, by decide⟩
theorem witness_OneBlockStepEnabled_emit : BlockInv lastBlock ∧ emitEnabled lastBlock = true := ⟨lastBlock_inv, by decide⟩
theorem witness_OneBlockStepEnabled_idle : BlockInv doneBlock ∧ doneBlock.phase = .idle := ⟨doneBlock_inv, by decide⟩
theorem witness_TransactionFollowsDecodeOrder : ∃ data, (regTxn false 7 0 idleBlock).2 = some data := ⟨0, by decide⟩
theorem witness_WriteCtrlCommand : 1 < (2 : RegData).toNat ∧
    ∃ t u : State, exec (decodeRegt true 0 1) (around idleBlock) = .next t ∧ exec .rdCtrl t = .next u :=
  ⟨by decide, _, _, rfl, rfl⟩
theorem witness_WriteModeConfig : (around doneBlock).block.phase = .idle ∧ (around scanBlock).block.phase = .scan ∧
    1 < (2 : RegData).toNat := by decide
theorem witness_WriteDimensionConfig : (around idleBlock).block.phase = .idle ∧ (around lastBlock).block.phase = .scan ∧
    ((3 : BitVec 3) = 3 ∨ (3 : BitVec 3) = 4) ∧ 65535 < (65536 : RegData).toNat := by decide
theorem witness_StatusReadMeaning : Inv lastState ∧ StatusHistory lastState :=
  ⟨lastState_inv, by decide, by decide⟩
theorem witness_CountReadMeaning : ScanHistory lastState ∧ lastState.block.phase = .scan := ⟨lastState_history, by decide⟩
theorem witness_IllegalReadRaises : (6 : BitVec 3) ≠ 7 ∧ ∃ t, exec (decodeRegt false 6 0) (around idleBlock) = .next t :=
  ⟨by decide, _, rfl⟩
theorem witness_IllegalWritesRaiseOnlyEIll : (.illWrReserved 3 65536 : Instr) ∈
      [Instr.illWrStatus 65536, .illWrCount 65536, .illWrErr 65536, .illWrUnmapped 65536, .illWrReserved 3 65536] ∧
    (((2 : BitVec 3) = 0 ∨ (2 : BitVec 3) = 2) ∧ 2 ≤ (2 : RegData).toNat) ∧
    (((4 : BitVec 3) = 3 ∨ (4 : BitVec 3) = 4) ∧ 65536 ≤ (65536 : RegData).toNat) := by decide
theorem witness_IllegalWritesRaiseOnlyEIll_indices : ∀ idx ∈ [(1 : BitVec 3), 5, 6, 7],
    idx = 1 ∨ idx = 5 ∨ idx = 6 ∨ idx = 7 := by decide
theorem witness_RaiseSetsOneBitOnly : (exec .illRd (around idleBlock) =
      .next ((around idleBlock).record (.returned 7 0) |>.setBlock (raise .ill idleBlock))) ∧ (.illRd : Instr) ≠ .reset ∧
    (raise .ill idleBlock).err ≠ idleBlock.err := ⟨rfl, by decide, by decide⟩
theorem witness_FaultConditions : (∃ t, exec (.wrMode 0) (around pendBlock) = .next t) ∧ (.wrMode 0 : Instr) ≠ .reset :=
  ⟨⟨_, rfl⟩, by decide⟩
theorem witness_FaultBitsAreSticky :
    let s : State := { around { idleBlock with err := 4 } with pending := [0x000000000108] }
    (∃ t, step s = .next t) ∧ (∀ w rest, s.pending = w :: rest → decode w ≠ .ok .reset) ∧ s.block.err.getLsbD 2 = true := by
  refine ⟨⟨_, rfl⟩, ?_, by decide⟩
  intro w rest h
  cases h
  rw [test_decode_start]
  simp
theorem witness_FaultBitsAreSticky_reset : ∃ t, exec .reset (around { idleBlock with err := 7 }) = .next t := ⟨_, rfl⟩
theorem witness_ResetRestoresInitialValues : ({ startPins with rst := true } : PinsIn).rst = true ∧ (.emit : Instr) ≠ .reset ∧
    ∃ t, exec .emit { lastState with block := { lastBlock with err := 4 } } = .next t ∧ t.block.phase = .idle ∧
    ({ lastBlock with err := 4 } : Block 16).err.getLsbD 2 = true ∧ lastBlock.phase = .scan :=
  ⟨rfl, by decide, _, rfl, by decide, by decide, by decide⟩
theorem witness_StartUpSequence : ∃ s1 s2 s3 s4 s5 : State, (2 : Dim) ≠ 0 ∧ (1 : Dim) ≠ 0 ∧
    exec .reset (around pendBlock) = .next s1 ∧ exec (.wrMode 1) s1 = .next s2 ∧ exec (.wrWidth 2) s2 = .next s3 ∧
    exec (.wrHeight 1) s3 = .next s4 ∧ exec .start s4 = .next s5 :=
  ⟨_, _, _, _, _, by decide, by decide, rfl, rfl, rfl, rfl, rfl⟩
theorem witness_StepKeepsInvariants : Inv { lastState with pending := [0x000000000016] } ∧
    ∃ t, step { lastState with pending := [0x000000000016] } = .next t :=
  ⟨⟨lastBlock_inv, by decide⟩, _, rfl⟩
theorem witness_BlockStepsKeepInvariantsAtEveryWidth : BlockInv scanBlock ∧ fetchEnabled scanBlock = true ∧
    BlockInv lastBlock ∧ emitEnabled lastBlock = true := ⟨scanBlock_inv, by decide, lastBlock_inv, by decide⟩
/-- A machine of 4 dimension bits, a START scheduled right after RESET. -/
def narrowState : State 4 := { State.resetAt 4 with pending := [encode .start] }
theorem narrowState_inv : Inv narrowState :=
  ⟨⟨fun _ => rfl, nofun, nofun, nofun, by decide, by decide⟩, by decide⟩
theorem witness_StepKeepsAtEveryWidth : Inv narrowState ∧ ScanHistory narrowState ∧ StatusHistory narrowState ∧
    ∃ t, stepAt narrowState = .next t :=
  ⟨narrowState_inv, ⟨nofun, nofun, nofun, nofun, nofun, nofun, fun _ _ => rfl⟩, ⟨nofun, fun _ => rfl⟩, _, rfl⟩
theorem witness_StepKeepsScanHistory : Inv scanState ∧ ScanHistory { scanState with pending := [0x000000000014] } ∧
    ∃ t, step { scanState with pending := [0x000000000014] } = .next t :=
  ⟨scanState_inv, ⟨by decide, by decide, by decide, fun _ => notLast_of_all (by decide), by decide, nofun, nofun⟩, _, rfl⟩
theorem witness_StepKeepsStatusHistory : StatusHistory { lastState with pending := [0x000000000016] } ∧
    ∃ t, step { lastState with pending := [0x000000000016] } = .next t := ⟨⟨by decide, by decide⟩, _, rfl⟩
/-- The image of V-S1 as a function. -/
def imageAt (x y : Nat) : Sample := (Image.read image x y).getD ⟨0, 0, 0, 0⟩
theorem witness_LastEmitCompletesTheStream : Inv lastState ∧ ScanHistory lastState ∧ lastState.block.phase = .scan ∧
    (∃ t, exec .emit lastState = .next t ∧ t.block.phase = .idle) ∧
    ∀ x y p, Event.fetched x y p ∈ scanLog lastState.log → p = imageAt x.toNat y.toNat := by
  refine ⟨lastState_inv, lastState_history, by decide, ⟨_, rfl, by decide⟩, ?_⟩
  intro x y p h
  have hl : scanLog lastState.log = [.fetched 0 0 ⟨255, 0, 0, 128⟩, .sent 0xF8 false, .sent 0x00 false,
    .fetched 1 0 ⟨0, 255, 0, 255⟩, .sent 0x07 false] := by decide
  rw [hl] at h
  simp only [List.mem_cons, Event.fetched.injEq, List.not_mem_nil, reduceCtorEq, or_false, false_or] at h
  rcases h with ⟨rfl, rfl, rfl⟩ | ⟨rfl, rfl, rfl⟩ <;> decide
theorem witness_ScanRunsToCompletion : startAccepted idleBlock = true := by decide
theorem witness_ScansAreHermetic : startAccepted idleBlock = true ∧
    startAccepted { doneBlock with err := 7 } = true ∧ doneBlock.alpha = idleBlock.alpha ∧ doneBlock.width = idleBlock.width ∧
    doneBlock.height = idleBlock.height := by decide
theorem witness_ScansAreHermetic_transactions : startAccepted idleBlock = true ∧
    (([none, some (true, 0, 1), none] : List (Option (Bool × BitVec 3 × RegData))).filter Option.isNone).length ≤
      idleBlock.width.toNat * idleBlock.height.toNat * (1 + bpp idleBlock.alpha) := by decide
theorem witness_ElementsWrittenOnlyByTheirOperations : ∃ t, exec .emit lastState = .next t ∧ (.emit : Instr) ≠ .reset ∧
    t.block.phase ≠ lastState.block.phase := ⟨_, rfl, by decide, by decide⟩
theorem witness_MemoriesWrittenOnlyByEmit : ∃ t, exec .emit lastState = .next t ∧
    ((.emit : Instr) ≠ .emit ∨ 0 ≠ lastState.block.count.toNat) := ⟨_, rfl, by decide⟩
theorem witness_ConfigurationFrozenDuringScan : (∃ t, exec (.wrWidth 7) (around pendBlock) = .next t) ∧
    (.wrWidth 7 : Instr) ≠ .reset ∧ (around pendBlock).block.phase = .scan := ⟨⟨_, rfl⟩, by decide, by decide⟩
theorem witness_TransactionsNeverDisturbAScan : (around pendBlock).block.phase = .scan ∧
    ∃ t, exec (decodeRegt true 0 1) (around pendBlock) = .next t := ⟨by decide, _, rfl⟩
theorem witness_OnlyTheseEventsStartOrEndAScan : (∃ t, exec .emit lastState = .next t ∧ lastState.block.phase = .scan ∧
      t.block.phase = .idle) ∧
    ∃ t, exec .start (around idleBlock) = .next t ∧ (around idleBlock).block.phase = .idle ∧ t.block.phase = .scan :=
  ⟨⟨_, rfl, by decide, by decide⟩, _, rfl, by decide, by decide⟩
theorem witness_CountersNeverWrap : BlockInv pendBlock ∧ emitEnabled pendBlock = true ∧ BlockInv scanBlock ∧
    fetchEnabled scanBlock = true := ⟨pendBlock_inv, by decide, scanBlock_inv, by decide⟩
theorem witness_WaitingChangesNothing : State.reset.pending = [] ∧
    ({ around pendBlock with pending := [0x10] } : State).pending = [0x10] ∧ decode (d := 16) 0x10 = .ok .idle := ⟨rfl, rfl, rfl⟩
theorem witness_DecodeAfterEncode : WellFormed (d := 16) (.illWrReserved 0 3) = true ∧ WellFormed (d := 16) (.wrCtrl 0) = true := by decide
theorem witness_DecodeGivesWellFormed : decode (d := 16) 0x00000000030A = .ok (.illWrReserved 2 3) := rfl
theorem witness_StepRunsDecodedInstruction : ({ around idleBlock with pending := [0x01] } : State).pending = [0x01] ∧
    decode (d := 16) 0x01 = .ok .rdStatus ∧ decode (d := 16) 0x40 = .error .unknownClass ∧ decodeTableWord 8 0xC = some (.wrHeight 0) :=
  ⟨rfl, rfl, rfl, rfl⟩
theorem witness_PortsShowTheEnabledStep : BlockInv lastBlock ∧ outPort lastBlock = some (0xE0, true) ∧ BlockInv scanBlock ∧
    pixPort scanBlock = some (0, 0) := ⟨lastBlock_inv, by decide, scanBlock_inv, by decide⟩
theorem witness_PortsShowTheEnabledStep_stable : BlockInv (around pendBlock).block ∧
    (∃ t, exec (.wrMode 1) (around pendBlock) = .next t) ∧ (.wrMode 1 : Instr) ≠ .emit ∧ (.wrMode 1 : Instr) ≠ .reset ∧
    (outPort (around pendBlock).block).isSome = true := ⟨pendBlock_inv, ⟨_, rfl⟩, by decide, by decide, by decide⟩
theorem witness_EdgeIsTransactionThenBlockStep : BlockInv lastState.block ∧ startPins.rst = false ∧ startPins.regValid = true ∧
    startPins.outReady = true ∧ emitEnabled lastState.block = true :=
  ⟨lastBlock_inv, by decide, by decide, by decide, by decide⟩
theorem witness_EdgeIsTransactionThenBlockStep_fetch : BlockInv scanState.block ∧ startPins.rst = false ∧
    fetchEnabled scanState.block = true ∧ { startPins with pixValid := true }.pixValid = true ∧
    emitEnabled scanState.block = false ∧ startPins.pixValid = false :=
  ⟨scanBlock_inv, by decide, by decide, rfl, by decide, rfl⟩
theorem witness_EdgeResetAndQuiet : ({ startPins with rst := true } : PinsIn).rst = true ∧
    (({ startPins with regValid := false, outReady := false } : PinsIn).regValid = false ∧
      ({ startPins with regValid := false, outReady := false } : PinsIn).outReady = false ∧ startPins.pixValid = false) ∧
    BlockInv (around idleBlock).block ∧ (around idleBlock).block.phase = .idle :=
  ⟨rfl, ⟨rfl, rfl, rfl⟩, idleBlock_inv, rfl⟩
theorem witness_ConsumerFindsEveryRecord : startAccepted idleBlock = true ∧ 1 < idleBlock.width.toNat ∧
    0 < idleBlock.height.toNat := by decide
/-- P1 after step 12, the log with it. -/
def doneState : State :=
  { around doneBlock with
    out := [(0, 0xF8), (1, 0x00), (2, 0x07), (3, 0xE0)], log := lastLog ++ [.sent 0xE0 true, .returned 1 2] }
theorem doneState_inv : Inv doneState := ⟨doneBlock_inv, by decide⟩
theorem doneState_history : ScanHistory doneState :=
  ⟨nofun, nofun, nofun, nofun, nofun, fun _ _ => ⟨by decide, 3, by decide⟩, nofun⟩
theorem witness_RenderedArrayLayout : (List.replicate 16 (0xCB : Byte)).length = 16 ∧ [(0xCB : Byte)] ≠ [] ∧
    [(0xCB : Byte)].length < 16 ∧ renderByte 0xCB = ['0', 'x', 'C', 'B', ',', ' '] := by decide
theorem witness_ArtifactIsAllOrNothing : Inv doneState ∧ ScanHistory doneState ∧ scanOver .lastMarker doneState = true ∧
    ∃ r, finishConversion hostParams request.naming .lastMarker .ready doneState [] = .ok r :=
  ⟨doneState_inv, doneState_history, by decide, _, rfl⟩
/-- Every failure of the host's end happens on some state. -/
theorem witness_ArtifactIsAllOrNothing_failures :
    finishConversion hostParams request.naming .pollDone .ready lastState [] = .error .scanNotOver ∧
    finishConversion hostParams request.naming .pollDone .ready
      { doneState with block := { doneBlock with err := 2 } } [] = .error (.blockFault 2) ∧
    finishConversion hostParams request.naming .pollDone .ready { doneState with log := lastLog } [] = .error .countMismatch ∧
    finishConversion hostParams request.naming .pollDone .directoryMissing doneState [] =
      .error (.software .outputDirectoryMissing) ∧
    finishConversion hostParams request.naming .pollDone .writeFails doneState [] = .error (.software .ioError) :=
  ⟨rfl, rfl, rfl, rfl, rfl⟩
theorem witness_ConversionWritesTheDecodedImage : 1 ≤ 16 ∧ Inv (around idleBlock) ∧
    (∃ w a, convert hostParams request willing ⟨around idleBlock, []⟩ = (w, .ok a)) ∧
    (∀ p, PartnerTurn.answer (some p) ∉ willing) ∧
    ∃ w e, convert hostParams request [] ⟨around idleBlock, []⟩ = (w, .error e) :=
  ⟨by decide, ⟨idleBlock_inv, by decide⟩, ⟨_, _, rfl⟩, by simp [willing], _, _, rfl⟩
theorem witness_ConversionWritesTheDecodedImage_image : 1 < decoded.width ∧ 0 < decoded.height ∧
    Image.read decoded.pixels 1 0 = some (imageAt 1 0) ∧ Image.read decoded.pixels 0 0 = some (imageAt 0 0) := by decide

/-! ## A bus in front of the register port -/

/-- A bus for the tests: byte addresses, one register every four bytes from the base on. -/
def byteBus : BusBinding where
  bus :=
    { Address := Nat
      Access := Bool × Nat × RegData
      Response := Option RegData
      select := fun base a =>
        if base ≤ a.2.1 ∧ a.2.1 < base + 32 ∧ (a.2.1 - base) % 4 = 0 then
          some ⟨a.1, BitVec.ofNat 3 ((a.2.1 - base) / 4), a.2.2⟩
        else none
      respond := fun _ data => data }
  base := (0x1000 : Nat)
/-- R27, R63: WIDTH is register 3, and an access below the base is not the block's. -/
theorem test_bus_access :
    busAccess byteBus (true, (0x100C : Nat), (5 : RegData)) (around idleBlock) =
      .next (around { idleBlock with width := 5 }) ∧
    busAccess byteBus (true, (0x0FFC : Nat), (5 : RegData)) (around idleBlock) = .next (around idleBlock) := ⟨rfl, rfl⟩
theorem test_bus_read : busResponse byteBus (false, (0x100C : Nat), (0 : RegData)) (around idleBlock) = some (2 : RegData) := rfl

end Sys2Proof.Tests
end

section
/-! The step's machinery, one equation per outcome of the decoder. -/

namespace Sys2Proof.Machine

/-- A word that decodes is taken off the schedule and its operation is run. -/
theorem step_of_decode_ok {s : State} {w : StepWord} {rest : List StepWord} {i : Instr} (hp : s.pending = w :: rest)
    (hw : decode w = .ok i) : step s = exec i (s.setPending rest) := by
  simp only [step, hp, hw]

/-- A word that decodes to nothing is refused by the name of what is wrong with it. -/
theorem step_of_decode_error {s : State} {w : StepWord} {rest : List StepWord} {e : DecodeError}
    (hp : s.pending = w :: rest) (hw : decode w = .error e) : step s = .refused (.undecodable e) := by
  simp only [step, hp, hw]

/-- The operation of a table word is the one its step word decodes to (log entry 21). -/
theorem decode_of_decodeTableWord {nbits w : Nat} {i : Instr} (h : decodeTableWord nbits w = some i) :
    decode (BitVec.ofNat (Config.stepWordBits Config.dimBits) (w % 2 ^ nbits)) = .ok i := by
  unfold decodeTableWord at h
  cases hd : decode (BitVec.ofNat (Config.stepWordBits Config.dimBits) (w % 2 ^ nbits)) with
  | error e => rw [hd] at h; cases h
  | ok j => rw [hd] at h; cases h; rfl

/-- Settles O52: each outcome of the decoder by its equation of `step`; a placed table word leaves the state as it was once it
is taken off again. -/
theorem stepRunsDecodedInstruction : Obligations.StepRunsDecodedInstruction :=
  ⟨fun _ _ _ _ hp hw => step_of_decode_ok hp hw, fun _ _ _ _ hp hw => step_of_decode_error hp hw,
    fun _ _ _ _ h => step_of_decode_ok rfl (decode_of_decodeTableWord h)⟩

end Sys2Proof.Machine
end

section
/-! The invariants of R40 along the block's own steps. -/

namespace Sys2Proof.Machine

open Sys2Proof.Safety

variable {d : Nat} {b : Block d}

theorem fetchEnabled_iff : fetchEnabled b = true ↔ b.phase = .scan ∧ b.nb = 0 := by
  simp [fetchEnabled, busy, pend]

theorem emitEnabled_iff : emitEnabled b = true ↔ b.phase = .scan ∧ b.nb ≠ 0 := by
  simp [emitEnabled, busy, pend]

theorem lastByte_iff : lastByte b = true ↔ b.nb = 1 ∧ b.y = b.height := by simp [lastByte]

theorem startAccepted_iff : startAccepted b = true ↔ b.phase ≠ .scan ∧ b.width ≠ 0 ∧ b.height ≠ 0 := by
  simp [startAccepted, busy, and_assoc]

/-- The accepted START (R131). -/
theorem startBlock_of_accepted (h : startAccepted b = true) :
    startBlock b = { b with phase := .scan, done := false, x := 0, y := 0, nb := 0, count := 0 } := by
  obtain ⟨hp, hw, hh⟩ := startAccepted_iff.1 h
  rw [startBlock, if_neg (by simpa [busy] using hp), if_neg (not_or.2 ⟨hw, hh⟩)]

/-- The block an accepted START leaves meets the invariants, whatever the block was before. -/
theorem blockInv_startBlock (h : startAccepted b = true) : BlockInv (startBlock b) := by
  obtain ⟨-, hw, hh⟩ := startAccepted_iff.1 h
  have hw := BitVec.toNat_pos_of_ne_zero hw
  have hh := BitVec.toNat_pos_of_ne_zero hh
  rw [startBlock_of_accepted h]
  refine ⟨nofun, fun _ => ⟨hw, hh, hw, Nat.zero_le _, Nat.zero_le _⟩, fun _ (hy : 0 = b.height) => ?_, fun _ => ?_, nofun,
    Nat.zero_le _⟩
  · simp [← hy] at hh
  · simp [pixelsFetched]

/-- Adding one to a word that is not all ones does not wrap. -/
theorem toNat_add_one {n : Nat} {v : BitVec n} (h : v.toNat + 1 < 2 ^ n) : (v + 1).toNat = v.toNat + 1 := by
  show (v + 1#n).toNat = _
  rw [BitVec.toNat_add, BitVec.toNat_ofNat, Nat.add_mod_mod, Nat.mod_eq_of_lt h]

/-- NEXT inside the grid (R133): the column stays inside, only the end mark has the row below the last, and the pixel index
moves by one. -/
theorem nextPos_in_grid {w h x y : BitVec d} (hx : x.toNat < w.toNat) (hy : y.toNat < h.toNat) :
    (nextPos w x y).1.toNat < w.toNat ∧ (nextPos w x y).2.toNat ≤ h.toNat ∧
    ((nextPos w x y).2 = h → (nextPos w x y).1 = 0) ∧
    (nextPos w x y).2.toNat * w.toNat + (nextPos w x y).1.toNat = y.toNat * w.toNat + x.toNat + 1 := by
  have hwlt := w.isLt
  have hhlt := h.isLt
  unfold nextPos
  split
  · next hlt =>
    have hx1 : (x + 1).toNat = x.toNat + 1 := toNat_add_one (by omega)
    exact ⟨hx1 ▸ hlt, Nat.le_of_lt hy, fun he => absurd (congrArg BitVec.toNat he) (Nat.ne_of_lt hy),
      by rw [hx1, Nat.add_assoc]⟩
  · next hge =>
    have hy1 : (y + 1).toNat = y.toNat + 1 := toNat_add_one (by omega)
    refine ⟨?_, hy1 ▸ hy, fun _ => rfl, ?_⟩
    · simpa using Nat.zero_lt_of_lt hx
    · rw [hy1, Nat.succ_mul, BitVec.ofNat_eq_ofNat, BitVec.toNat_zero]
      omega

section Fetch
variable (h : BlockInv b)
include h

/-- Before the end mark a scan has a row, hence a pixel, left to fetch. -/
theorem pixelsFetched_lt (hs : b.phase = .scan) (hy : b.y ≠ b.height) :
    b.y.toNat < b.height.toNat ∧ pixelsFetched b < b.width.toNat * b.height.toNat := by
  obtain ⟨-, -, hx, hyh, -⟩ := h.scanRange hs
  have hlt : b.y.toNat < b.height.toNat := Nat.lt_of_le_of_ne hyh (BitVec.toNat_ne.1 hy)
  have hrow : (b.y.toNat + 1) * b.width.toNat ≤ b.height.toNat * b.width.toNat := Nat.mul_le_mul_right _ hlt
  rw [Nat.add_mul, Nat.mul_comm b.height.toNat] at hrow
  exact ⟨hlt, by unfold pixelsFetched; omega⟩

/-- At the end mark every pixel is fetched. -/
theorem pixelsFetched_end (hs : b.phase = .scan) (hy : b.y = b.height) :
    pixelsFetched b = b.width.toNat * b.height.toNat := by
  obtain ⟨-, hx⟩ := h.scanEnd hs hy
  simp [pixelsFetched, hx, hy, Nat.mul_comm]

theorem pixelsFetched_le (hs : b.phase = .scan) : pixelsFetched b ≤ b.width.toNat * b.height.toNat := by
  by_cases hy : b.y = b.height
  · exact Nat.le_of_eq (pixelsFetched_end h hs hy)
  · exact Nat.le_of_lt (pixelsFetched_lt h hs hy).2

/-- A FETCH is offered only before the end mark. -/
theorem y_ne_height_of_fetchEnabled (hf : fetchEnabled b = true) : b.y ≠ b.height := by
  obtain ⟨hs, hnb⟩ := fetchEnabled_iff.1 hf
  intro hy
  have := (h.scanEnd hs hy).1
  simp [hnb] at this

/-- FETCH moves the position as NEXT does inside the grid. -/
theorem fetchBlock_in_grid (hf : fetchEnabled b = true) (p : Sample) :
    (fetchBlock p b).x.toNat < b.width.toNat ∧ (fetchBlock p b).y.toNat ≤ b.height.toNat ∧
    ((fetchBlock p b).y = b.height → (fetchBlock p b).x = 0) ∧
    pixelsFetched (fetchBlock p b) = pixelsFetched b + 1 := by
  obtain ⟨hs, -⟩ := fetchEnabled_iff.1 hf
  obtain ⟨-, -, hx, -, -⟩ := h.scanRange hs
  exact nextPos_in_grid hx (pixelsFetched_lt h hs (y_ne_height_of_fetchEnabled h hf)).1

/-- FETCH keeps the invariants. -/
theorem blockInv_fetchBlock (hf : fetchEnabled b = true) (p : Sample) : BlockInv (fetchBlock p b) := by
  obtain ⟨hs, hnb⟩ := fetchEnabled_iff.1 hf
  obtain ⟨hw, hh, -, -, -⟩ := h.scanRange hs
  obtain ⟨hx, hy, hend, hindex⟩ := fetchBlock_in_grid h hf p
  have hnb' : (fetchBlock p b).nb.toNat = bpp b.alpha := bpp_toNat _
  refine ⟨by simp [hs], fun _ => ⟨hw, hh, hx, hy, Nat.le_of_eq hnb'⟩, fun _ he => ⟨?_, hend he⟩, fun _ => ?_, h.notBusyDone,
    h.countBound⟩
  · have := bpp_two_or_three b.alpha
    omega
  · have hcount := h.scanCount hs
    rw [hnb] at hcount
    rw [hindex, hnb', fetchBlock_count, fetchBlock_alpha, Nat.mul_add]
    simpa using hcount

end Fetch

/-- The largest total a scan can have (R138) fits COUNT. -/
theorem largest_total_lt (d : Nat) : 3 * ((2 ^ d - 1) * (2 ^ d - 1)) < 2 ^ Config.cntBits d := by
  have hpow : 2 ^ Config.cntBits d = 4 * (2 ^ d * 2 ^ d) := by
    rw [Config.cntBits, Nat.pow_add, Nat.two_mul, Nat.pow_add]
    omega
  have hle : (2 ^ d - 1) * (2 ^ d - 1) ≤ 2 ^ d * 2 ^ d := Nat.mul_le_mul (Nat.sub_le _ _) (Nat.sub_le _ _)
  have hpos : 0 < 2 ^ d * 2 ^ d := Nat.mul_pos (Nat.two_pow_pos d) (Nat.two_pow_pos d)
  omega

/-- EMIT of a pending byte leaves one fewer (R134). -/
theorem emitBlock_nb_toNat (hnb : b.nb ≠ 0) : (emitBlock b).nb.toNat + 1 = b.nb.toNat := by
  rw [emitBlock_nb]
  bv_omega

section Emit
variable (h : BlockInv b)
include h

/-- With a byte pending COUNT is below the largest total. -/
theorem count_lt_of_emitEnabled (he : emitEnabled b = true) :
    b.count.toNat < 3 * ((2 ^ d - 1) * (2 ^ d - 1)) := by
  obtain ⟨hs, hnb⟩ := emitEnabled_iff.1 he
  have hpos := BitVec.toNat_pos_of_ne_zero hnb
  have hcount := h.scanCount hs
  have hgrid : b.width.toNat * b.height.toNat ≤ (2 ^ d - 1) * (2 ^ d - 1) :=
    Nat.mul_le_mul (Nat.le_pred_of_lt b.width.isLt) (Nat.le_pred_of_lt b.height.isLt)
  have hbpp : bpp b.alpha ≤ 3 := by cases b.alpha <;> decide
  have := Nat.mul_le_mul hbpp (Nat.le_trans (pixelsFetched_le h hs) hgrid)
  omega

/-- COUNT does not wrap (R33). -/
theorem emitBlock_count_toNat (he : emitEnabled b = true) : (emitBlock b).count.toNat = b.count.toNat + 1 := by
  rw [emitBlock_count]
  exact toNat_add_one (Nat.lt_of_le_of_lt (count_lt_of_emitEnabled h he) (largest_total_lt d))

/-- EMIT keeps the invariants. -/
theorem blockInv_emitBlock (he : emitEnabled b = true) : BlockInv (emitBlock b) := by
  obtain ⟨hs, hnb⟩ := emitEnabled_iff.1 he
  have hnb' := emitBlock_nb_toNat hnb
  have hcnt := emitBlock_count_toNat h he
  have hbound : (emitBlock b).count.toNat ≤ 3 * ((2 ^ d - 1) * (2 ^ d - 1)) := hcnt ▸ count_lt_of_emitEnabled h he
  by_cases hl : lastByte b = true
  · obtain ⟨h1, -⟩ := lastByte_iff.1 hl
    have hidle : (emitBlock b).phase ≠ .scan := by simp [emitBlock_phase, hl]
    exact ⟨fun _ => by simp [h1], (absurd · hidle), (absurd · hidle), (absurd · hidle), fun hc => hidle hc.1, hbound⟩
  · have hscan : (emitBlock b).phase = .scan := by simp [emitBlock_phase, hl, hs]
    have hrange := h.scanRange hs
    have hcount := h.scanCount hs
    refine ⟨by simp [hscan], fun _ => ?_, fun _ hend => ?_, fun _ => ?_, ?_, hbound⟩
    · simp only [emitBlock_alpha, emitBlock_width, emitBlock_height, emitBlock_x, emitBlock_y]
      omega
    · rw [emitBlock_y, emitBlock_height] at hend
      have h1 : b.nb.toNat ≠ 1 := fun h1 => hl (lastByte_iff.2 ⟨BitVec.eq_of_toNat_eq h1, hend⟩)
      exact ⟨by omega, by simpa using (h.scanEnd hs hend).2⟩
    · simp only [pixelsFetched, emitBlock_alpha, emitBlock_width, emitBlock_x, emitBlock_y] at hcount ⊢
      omega
    · simpa [emitBlock_done, hl, hscan] using fun hd => h.notBusyDone ⟨hs, hd⟩

end Emit

/-- The next byte is the head of the queue, and EMIT takes it off (R23, R134). -/
theorem queue_eq_cons (hnb : b.nb ≠ 0) (hle : b.nb.toNat ≤ bpp b.alpha) :
    ∃ v, nextByte b = some v ∧ queue b = v :: queue (emitBlock b) := by
  have hvals : b.nb = 1 ∨ b.nb = 2 ∨ b.nb = 3 := by
    generalize b.nb = nb at hnb
    revert nb
    decide
  -- which lane is next depends on BPP and NB alone: two by three cases, one of them excluded by `hle`
  cases ha : b.alpha <;> rcases hvals with hn | hn | hn <;>
    simp_all [nextByte, queue, lane, bpp]

end Sys2Proof.Machine
end

section
/-! The block run by itself: what a turn does, and how many are left. -/

namespace Sys2Proof.Machine

open Sys2Proof.Safety

variable {d : Nat} {b : Block d}

/-- What a block turn with willing partners does under R40 (R135): a FETCH, an EMIT of the head of the queue, or, in idle,
nothing. -/
inductive Turn (img : Nat → Nat → Sample) (b : Block d) : Block d × List (Byte × Bool) → Prop where
  | fetch (h : fetchEnabled b = true) : Turn img b (fetchBlock (img b.x.toNat b.y.toNat) b, [])
  | emit (h : emitEnabled b = true) (v : Byte) (hv : nextByte b = some v) (hq : queue b = v :: queue (emitBlock b)) :
      Turn img b (emitBlock b, [(v, lastByte b)])
  | idle (h : b.phase ≠ .scan) : Turn img b (b, [])

theorem blockTurn_of_fetchEnabled (h : fetchEnabled b = true) (img : Nat → Nat → Sample) :
    blockTurn img b = (fetchBlock (img b.x.toNat b.y.toNat) b, []) :=
  if_pos h

theorem blockTurn_of_emitEnabled (h : emitEnabled b = true) {v : Byte} (hv : nextByte b = some v)
    (img : Nat → Nat → Sample) : blockTurn img b = (emitBlock b, [(v, lastByte b)]) := by
  have hf : ¬fetchEnabled b = true := fun hf => (emitEnabled_iff.1 h).2 (fetchEnabled_iff.1 hf).2
  rw [blockTurn, if_neg hf, if_pos h, hv]

theorem blockTurn_of_idle (h : b.phase ≠ .scan) (img : Nat → Nat → Sample) : blockTurn img b = (b, []) := by
  rw [blockTurn, if_neg fun hf => h (fetchEnabled_iff.1 hf).1, if_neg fun he => h (emitEnabled_iff.1 he).1]

theorem blockTurn_turn (h : BlockInv b) (img : Nat → Nat → Sample) : Turn img b (blockTurn img b) := by
  by_cases hs : b.phase = .scan
  · by_cases hnb : b.nb = 0
    · have hf := fetchEnabled_iff.2 ⟨hs, hnb⟩
      exact blockTurn_of_fetchEnabled hf img ▸ .fetch hf
    · have he := emitEnabled_iff.2 ⟨hs, hnb⟩
      obtain ⟨v, hv, hq⟩ := queue_eq_cons hnb (h.scanRange hs).2.2.2.2
      exact blockTurn_of_emitEnabled he hv img ▸ .emit he v hv hq
  · exact blockTurn_of_idle hs img ▸ .idle hs

theorem blockInv_blockTurn (h : BlockInv b) (img : Nat → Nat → Sample) : BlockInv (blockTurn img b).1 := by
  have ht := blockTurn_turn h img
  generalize blockTurn img b = r at ht ⊢
  cases ht with
  | fetch hf => exact blockInv_fetchBlock h hf _
  | emit he => exact blockInv_emitBlock h he
  | idle => exact h

/-- The block turns a scan still needs: a FETCH and BPP EMITs for each pixel not fetched, an EMIT for each byte pending. -/
def turnsLeft (b : Block d) : Nat :=
  if b.phase = .scan then
    (b.width.toNat * b.height.toNat - pixelsFetched b) * (1 + bpp b.alpha) + b.nb.toNat
  else 0

theorem turnsLeft_idle (hs : b.phase ≠ .scan) : turnsLeft b = 0 := if_neg hs

theorem turnsLeft_scan (hs : b.phase = .scan) :
    turnsLeft b = (b.width.toNat * b.height.toNat - pixelsFetched b) * (1 + bpp b.alpha) + b.nb.toNat := if_pos hs

theorem turnsLeft_startBlock (h : startAccepted b = true) :
    turnsLeft (startBlock b) = b.width.toNat * b.height.toNat * (1 + bpp b.alpha) := by
  simp [startBlock_of_accepted h, turnsLeft, pixelsFetched]

theorem turnsLeft_pos (h : BlockInv b) (hs : b.phase = .scan) : 0 < turnsLeft b := by
  rw [turnsLeft_scan hs]
  by_cases hy : b.y = b.height
  · exact Nat.add_pos_right _ (h.scanEnd hs hy).1
  · have := (pixelsFetched_lt h hs hy).2
    exact Nat.add_pos_left (Nat.mul_pos (by omega) (by omega)) _

/-- Every block turn brings the end of the scan one nearer. -/
theorem turnsLeft_blockTurn (h : BlockInv b) (img : Nat → Nat → Sample) :
    turnsLeft (blockTurn img b).1 = turnsLeft b - 1 := by
  have ht := blockTurn_turn h img
  generalize blockTurn img b = r at ht ⊢
  cases ht with
  | fetch hf =>
    obtain ⟨hs, hnb⟩ := fetchEnabled_iff.1 hf
    obtain ⟨-, -, -, hindex⟩ := fetchBlock_in_grid h hf (img b.x.toNat b.y.toNat)
    have hlt := (pixelsFetched_lt h hs (y_ne_height_of_fetchEnabled h hf)).2
    have hnb0 : b.nb.toNat = 0 := congrArg BitVec.toNat hnb
    obtain ⟨k, hk⟩ := Nat.exists_eq_add_one.2 (Nat.sub_pos_of_lt hlt)
    rw [turnsLeft_scan hs, turnsLeft_scan (by simpa using hs), hindex, Nat.sub_add_eq]
    simp only [fetchBlock_width, fetchBlock_height, fetchBlock_alpha, fetchBlock_nb, bpp_toNat, hk, hnb0,
      Nat.add_sub_cancel, Nat.succ_mul]
    omega
  | emit he =>
    obtain ⟨hs, hnb⟩ := emitEnabled_iff.1 he
    have hnb' := emitBlock_nb_toNat hnb
    by_cases hl : lastByte b = true
    · obtain ⟨h1, hy⟩ := lastByte_iff.1 hl
      rw [turnsLeft_scan hs, turnsLeft_idle (by simp [emitBlock_phase, hl]), pixelsFetched_end h hs hy, h1]
      simp
    · rw [turnsLeft_scan hs, turnsLeft_scan (by simp [emitBlock_phase, hl, hs])]
      simp only [pixelsFetched, emitBlock_alpha, emitBlock_width, emitBlock_height, emitBlock_x, emitBlock_y]
      omega
  | idle hs => simp [turnsLeft_idle hs]

end Sys2Proof.Machine
end

section
/-! Two runs of one scan, and transactions between the block's turns. -/

namespace Sys2Proof.Machine

open Sys2Proof.Safety

variable {d : Nat} {b c : Block d}

/-- Blocks that a scan cannot tell apart: they differ at most in ERR and in lanes of HOLD that are not queued. -/
inductive SameScan (b : Block d) : Block d → Prop where
  | intro (hold : Hold) (err : BitVec 3) (hq : queue { b with hold := hold } = queue b) :
      SameScan b { b with hold := hold, err := err }

theorem SameScan.refl (b : Block d) : SameScan b b := .intro b.hold b.err rfl

theorem SameScan.phase (h : SameScan b c) : c.phase = b.phase := by cases h; rfl

theorem SameScan.count (h : SameScan b c) : c.count = b.count := by cases h; rfl

/-- A fault raised meanwhile makes no difference to a scan. -/
theorem sameScan_raise (h : SameScan b c) (e : Cause) : SameScan b (raise e c) := by
  obtain ⟨hold, err, hq⟩ := h
  exact .intro hold _ hq

/-- Blocks of one configuration are the same scan once it begins (R2). -/
theorem sameScan_startBlock (hb : startAccepted b = true) (hc : startAccepted c = true) (ha : c.alpha = b.alpha)
    (hw : c.width = b.width) (hh : c.height = b.height) : SameScan (startBlock b) (startBlock c) := by
  rw [startBlock_of_accepted hb, startBlock_of_accepted hc, ha, hw, hh]
  exact .intro c.hold c.err (by rw [queue_of_nb_zero rfl, queue_of_nb_zero rfl])

/-- EMIT neither reads nor writes HOLD and ERR on the block. -/
theorem emitBlock_hold_err (b : Block d) (hold : Hold) (err : BitVec 3) :
    emitBlock { b with hold := hold, err := err } = { emitBlock b with hold := hold, err := err } := by
  unfold emitBlock lastByte
  split <;> rfl

/-- A block turn sends the same from blocks of one scan, and leaves blocks of one scan. -/
theorem sameScan_blockTurn (h : BlockInv b) (hs : SameScan b c) (img : Nat → Nat → Sample) :
    (blockTurn img c).2 = (blockTurn img b).2 ∧ SameScan (blockTurn img b).1 (blockTurn img c).1 := by
  obtain ⟨hold, err, hq⟩ := hs
  have ht := blockTurn_turn h img
  generalize blockTurn img b = r at ht ⊢
  cases ht with
  | fetch hf =>
    rw [blockTurn_of_fetchEnabled (b := { b with hold := hold, err := err }) hf]
    exact ⟨rfl, .intro _ err ((queue_fetchBlock _ { b with hold := hold }).trans (queue_fetchBlock _ b).symm)⟩
  | emit he v hv hqb =>
    obtain ⟨hp, hnb⟩ := emitEnabled_iff.1 he
    obtain ⟨u, hu, hqc⟩ := queue_eq_cons (b := { b with hold := hold, err := err }) hnb (h.scanRange hp).2.2.2.2
    obtain ⟨rfl, hrest⟩ := List.cons.inj (hqc.symm.trans (hq.trans hqb))
    rw [blockTurn_of_emitEnabled (b := { b with hold := hold, err := err }) he hu, emitBlock_hold_err]
    rw [emitBlock_hold_err] at hrest
    exact ⟨rfl, .intro _ err hrest⟩
  | idle hi =>
    rw [blockTurn_of_idle (b := { b with hold := hold, err := err }) hi]
    exact ⟨rfl, .intro hold err hq⟩

/-- So does a run of any length (R2). -/
theorem sameScan_blockRun (h : BlockInv b) (hs : SameScan b c) (img : Nat → Nat → Sample) (n : Nat) :
    (blockRun img n c).2 = (blockRun img n b).2 ∧ SameScan (blockRun img n b).1 (blockRun img n c).1 := by
  induction n generalizing b c with
  | zero => exact ⟨rfl, hs⟩
  | succ n ih =>
    obtain ⟨hsent, hs'⟩ := sameScan_blockTurn h hs img
    obtain ⟨hrest, hend⟩ := ih (blockInv_blockTurn h img) hs'
    exact ⟨by rw [blockRun, blockRun, hsent, hrest], hend⟩

theorem startBlock_of_busy (hb : busy b = true) : startBlock b = raise .busy b := if_pos hb

/-- A register transaction during a scan does nothing to the block but raise a fault (R64, R140). -/
theorem regTxn_of_scan (hs : b.phase = .scan) (we : Bool) (idx : BitVec 3) (wdata : RegData d) :
    (regTxn we idx wdata b).1 = b ∨ ∃ e, (regTxn we idx wdata b).1 = raise e b := by
  have hb : busy b = true := by simp [busy, hs]
  unfold regTxn
  repeat' split
  · exact .inr ⟨.ill, rfl⟩
  · exact .inl rfl
  · exact .inr ⟨.ill, rfl⟩
  · exact .inr ⟨.ill, rfl⟩
  · show writeCtrl _ b = b ∨ ∃ e, writeCtrl _ b = raise e b
    rw [writeCtrl, startBlock_of_busy hb]
    split
    · exact .inr ⟨.busy, rfl⟩
    · exact .inl rfl
  all_goals exact .inr ⟨.busy, if_pos hb⟩

theorem sameScan_regTxn (hs : SameScan b c) (hp : b.phase = .scan) (we : Bool) (idx : BitVec 3) (wdata : RegData d) :
    SameScan b (regTxn we idx wdata c).1 := by
  rcases regTxn_of_scan (hs.phase.trans hp) we idx wdata with h | ⟨e, h⟩ <;> rw [h]
  · exact hs
  · exact sameScan_raise hs e

/-- Transactions alone send no byte. -/
theorem mixedRun_of_no_turn (img : Nat → Nat → Sample) (turns : List (Option (Bool × BitVec 3 × RegData d))) (b : Block d)
    (h : turns.filter Option.isNone = []) : (mixedRun img turns b).2 = [] := by
  induction turns generalizing b with
  | nil => rfl
  | cons t ts ih =>
    cases t with
    | none => simp at h
    | some txn => exact ih _ (by simpa using h)

/-- Up to the last turn of the scan the transactions between the block's turns change nothing of the stream (R140): a
transaction in idle can only come after it. -/
theorem sameScan_mixedRun (img : Nat → Nat → Sample) (turns : List (Option (Bool × BitVec 3 × RegData d)))
    (h : BlockInv b) (hs : SameScan b c) (hn : (turns.filter Option.isNone).length ≤ turnsLeft b) :
    (mixedRun img turns c).2 = (blockRun img (turns.filter Option.isNone).length b).2 := by
  induction turns generalizing b c with
  | nil => rfl
  | cons t ts ih =>
    cases t with
    | none =>
      simp only [List.filter_cons, Option.isNone_none, if_true, List.length_cons] at hn ⊢
      obtain ⟨hsent, hs'⟩ := sameScan_blockTurn h hs img
      have hleft := turnsLeft_blockTurn h img
      rw [mixedRun, blockRun, hsent, ih (blockInv_blockTurn h img) hs' (by omega)]
    | some txn =>
      obtain ⟨we, idx, wdata⟩ := txn
      simp only [List.filter_cons, Option.isNone_some, Bool.false_eq_true, if_false] at hn ⊢
      by_cases hp : b.phase = .scan
      · exact ih h (sameScan_regTxn hs hp we idx wdata) hn
      · rw [turnsLeft_idle hp, Nat.le_zero, List.length_eq_zero_iff] at hn
        rw [hn]
        exact mixedRun_of_no_turn img ts _ hn

/-- Settles O41: two accepted STARTs of one configuration begin the same scan, block turns and transactions keep it the same,
and the count of turns left says that no transaction before the last turn meets an idle block. -/
theorem scansAreHermetic : Obligations.ScansAreHermetic := by
  constructor
  · intro d n b c img hb hc ha hw hh
    obtain ⟨hsent, hsame⟩ := sameScan_blockRun (blockInv_startBlock hb) (sameScan_startBlock hb hc ha hw hh) img n
    exact ⟨hsent, hsame.count, hsame.phase⟩
  · intro d b img turns hb hn
    exact sameScan_mixedRun img turns (blockInv_startBlock hb) (.refl _) (turnsLeft_startBlock hb ▸ hn)

end Sys2Proof.Machine
end

section
/-! What every step keeps: the induction step over `Effect`, and the invariants of R40 through every operation. -/

namespace Sys2Proof.Machine

open Sys2Proof.Safety

variable {d : Nat} {b : Block d} {s t : State d} {i : Instr d}

/-- What does not speak of the schedule and holds after every effect is kept by every step. -/
theorem stepAt_keeps {P : State d → Prop} (hpending : ∀ s rest, P s → P (s.setPending rest))
    (heffect : ∀ s i t, P s → Effect s i t → P t) (hs : P s) (h : stepAt s = .next t) : P t := by
  rcases stepAt_effect h with ⟨-, rfl⟩ | ⟨w, rest, i, -, -, he⟩
  · exact hs
  · exact heffect _ i t (hpending s rest hs) he

/-- In idle R40 says two things only: no byte is pending, and COUNT is bounded (items 1 and 6). -/
theorem blockInv_of_idle (hp : b.phase = .idle) (hnb : b.nb = 0)
    (hcount : b.count.toNat ≤ 3 * ((2 ^ d - 1) * (2 ^ d - 1))) : BlockInv b := by
  have hscan : b.phase ≠ .scan := by simp [hp]
  exact ⟨fun _ => hnb, (absurd · hscan), (absurd · hscan), (absurd · hscan), fun hc => hscan hc.1, hcount⟩

theorem blockInv_afterReset (d n : Nat) : BlockInv (Block.afterReset d n) :=
  blockInv_of_idle rfl rfl (Nat.zero_le _)

/-- R40 does not speak of ERR. -/
theorem blockInv_raise (h : BlockInv b) (e : Cause) : BlockInv (raise e b) :=
  ⟨h.idleNb, h.scanRange, h.scanEnd, h.scanCount, h.notBusyDone, h.countBound⟩

theorem busy_eq_false_iff : busy b = false ↔ b.phase = .idle := by
  cases hp : b.phase <;> simp [busy, hp]

/-- In idle any configuration meets R40. -/
theorem blockInv_reconfigured (h : BlockInv b) (hb : busy b = false) (alpha : Bool) (w v : BitVec d) :
    BlockInv { b with alpha := alpha, width := w, height := v } :=
  have hp := busy_eq_false_iff.1 hb
  blockInv_of_idle hp (h.idleNb hp) h.countBound

/-- A START that is not accepted raises its fault and does nothing else (R131). -/
theorem startBlock_of_not_accepted (h : ¬startAccepted b = true) : ∃ e, startBlock b = raise e b := by
  unfold startBlock
  split
  · exact ⟨.busy, rfl⟩
  · split
    · exact ⟨.dim, rfl⟩
    · simp_all [startAccepted]

/-- START keeps the invariants, accepted or not. -/
theorem startBlock_keeps_blockInv (h : BlockInv b) : BlockInv (startBlock b) := by
  by_cases ha : startAccepted b = true
  · exact blockInv_startBlock ha
  · obtain ⟨e, he⟩ := startBlock_of_not_accepted ha
    exact he ▸ blockInv_raise h e

/-- What a register transaction can do to the block (R150). -/
inductive TxnEffect (b : Block d) : Block d → Prop where
  | quiet : TxnEffect b b
  | raised (e : Cause) : TxnEffect b (raise e b)
  | start : TxnEffect b (startBlock b)
  | reconfigured (h : busy b = false) (alpha : Bool) (w v : BitVec d) :
      TxnEffect b { b with alpha := alpha, width := w, height := v }

/-- A configuration write is dropped with E_BUSY or sets one of the three registers. -/
theorem configWrite_txnEffect {f : Block d → Block d} (hf : busy b = false → TxnEffect b (f b)) :
    TxnEffect b (configWrite f b) := by
  unfold configWrite
  split
  · exact .raised .busy
  · next hb => exact hf (by simpa using hb)

theorem writeCtrl_txnEffect (a : BitVec 1) : TxnEffect b (writeCtrl a b) := by
  unfold writeCtrl
  split
  · exact .start
  · exact .quiet

/-- Every transaction has one of these effects, by the decode order of R150. -/
theorem regTxn_txnEffect (we : Bool) (idx : BitVec 3) (wdata : RegData d) : TxnEffect b (regTxn we idx wdata b).1 := by
  unfold regTxn
  repeat' split
  · exact .raised .ill
  · exact .quiet
  · exact .raised .ill
  · exact .raised .ill
  · exact writeCtrl_txnEffect _
  · exact configWrite_txnEffect (f := fun b => { b with alpha := bitSet (bitField wdata) })
      fun hb => .reconfigured hb _ b.width b.height
  · exact configWrite_txnEffect (f := fun b => { b with width := dimField wdata })
      fun hb => .reconfigured hb b.alpha _ b.height
  · exact configWrite_txnEffect (f := fun b => { b with height := dimField wdata })
      fun hb => .reconfigured hb b.alpha b.width _

/-- A register transaction keeps the invariants. -/
theorem blockInv_regTxn (h : BlockInv b) (we : Bool) (idx : BitVec 3) (wdata : RegData d) :
    BlockInv (regTxn we idx wdata b).1 := by
  have ht := regTxn_txnEffect (b := b) we idx wdata
  generalize (regTxn we idx wdata b).1 = c at ht ⊢
  cases ht with
  | quiet => exact h
  | raised e => exact blockInv_raise h e
  | start => exact startBlock_keeps_blockInv h
  | reconfigured hb alpha w v => exact blockInv_reconfigured h hb alpha w v

/-- Every operation keeps R40 on the block. -/
theorem blockInv_of_effect (h : BlockInv s.block) (he : Effect s i t) : BlockInv t.block := by
  cases he with
  | quiet => exact h
  | computed _ r => exact h
  | read _ idx => exact h
  | illegalRead => exact blockInv_raise h .ill
  | dropped _ e => exact blockInv_raise h e
  | mode a hb => exact blockInv_reconfigured h hb (bitSet a) s.block.width s.block.height
  | width w hb => exact blockInv_reconfigured h hb s.block.alpha w s.block.height
  | height v hb => exact blockInv_reconfigured h hb s.block.alpha s.block.width v
  | started _ _ ha =>
    rw [← startBlock_of_accepted ha]
    exact blockInv_startBlock ha
  | fetched _ p _ hf => exact blockInv_fetchBlock h hf p
  | sent v hm => exact blockInv_emitBlock h hm
  | reset => exact blockInv_afterReset d s.free

/-- Every operation keeps the canonical form of the output memory: it leaves the memory or is the one write of an EMIT. -/
theorem out_wf_of_effect (h : Memory.wf s.out) (he : Effect s i t) : Memory.wf t.out := by
  cases he with
  | sent v => exact Memory.write_wf h s.block.count.toNat v
  | _ => exact h

theorem inv_stepAt (h : Inv s) (hstep : stepAt s = .next t) : Inv t :=
  stepAt_keeps (P := Inv) (fun _ _ h => ⟨h.block, h.out⟩)
    (fun _ _ _ h he => ⟨blockInv_of_effect h.block he, out_wf_of_effect h.out he⟩) h hstep

/-- Settles O36: each block step, transaction and RESET by its own lemma, and the machine's step by the effects an operation
can have. -/
theorem blockStepsKeepInvariantsAtEveryWidth : Obligations.BlockStepsKeepInvariantsAtEveryWidth :=
  ⟨fun d _ h => ⟨startBlock_keeps_blockInv h, fun p hf => blockInv_fetchBlock h hf p, blockInv_emitBlock h,
    blockInv_regTxn h, blockInv_afterReset d⟩, fun _ _ _ => inv_stepAt⟩

/-- Settles O35: the step of the default machine is the step at its width. -/
theorem stepKeepsInvariants : Obligations.StepKeepsInvariants :=
  fun s _ h hstep => inv_stepAt h (step_eq_stepAt s ▸ hstep)

/-- Settles O47: COUNT is below the largest total, which its width holds, where a byte is pending; and FETCH moves as NEXT does
inside the grid, so the block it leaves meets the invariants again. -/
theorem countersNeverWrap : Obligations.CountersNeverWrap := by
  intro d b p h
  refine ⟨emitBlock_count_toNat h, fun hf => ?_⟩
  obtain ⟨-, -, -, hindex⟩ := fetchBlock_in_grid h hf p
  obtain ⟨hs, -⟩ := fetchEnabled_iff.1 hf
  exact ⟨hindex, pixelsFetched_le (blockInv_fetchBlock h hf p) hs⟩

end Sys2Proof.Machine
end

section
/-! The state after reset, and what BUSY and DONE say of the past. -/

namespace Sys2Proof.Machine

open Sys2Proof.Safety

variable {d : Nat} {s t : State d} {i : Instr d}

/-- Settles O32: every field of the state after reset is the literal of its definition. -/
theorem resetStateValues : Obligations.ResetStateValues :=
  ⟨rfl, rfl, rfl, rfl, rfl, rfl, rfl, rfl, rfl, rfl, rfl, rfl⟩

theorem inv_resetAt (d : Nat) : Inv (State.resetAt d) :=
  ⟨blockInv_afterReset d 0, List.Pairwise.nil⟩

/-- Idle, DONE = 0 and an empty log: only the clause that no byte was sent says anything. -/
theorem scanHistory_resetAt (d : Nat) : ScanHistory (State.resetAt d) :=
  ⟨nofun, nofun, nofun, nofun, nofun, nofun, fun _ _ => rfl⟩

theorem statusHistory_resetAt (d : Nat) : StatusHistory (State.resetAt d) :=
  ⟨nofun, fun _ => rfl⟩

/-- Settles O33: the state after reset is idle and its log is empty, whatever the width. -/
theorem resetStateMeetsInvariants : Obligations.ResetStateMeetsInvariants :=
  have hreset (d : Nat) : Inv (State.resetAt d) ∧ ScanHistory (State.resetAt d) ∧ StatusHistory (State.resetAt d) :=
    ⟨inv_resetAt d, scanHistory_resetAt d, statusHistory_resetAt d⟩
  ⟨hreset Config.dimBits, hreset⟩

/-- The agreement of BUSY and DONE with the past reads PHASE, DONE and whether the log shows a START. -/
theorem statusHistory_congr (h : StatusHistory s) (hphase : t.block.phase = s.block.phase)
    (hdone : t.block.done = s.block.done) (hlog : startedSinceReset t.log = startedSinceReset s.log) :
    StatusHistory t := by
  constructor
  · rw [hphase, hlog]
    exact h.busy
  · rw [hphase, hdone, hlog]
    exact h.idle

theorem startedSinceReset_append_started (l : List (Event d)) : startedSinceReset (l ++ [.started]) = true := by
  simp [startedSinceReset_append_one]

theorem startedSinceReset_append_reset (l : List (Event d)) : startedSinceReset (l ++ [.reset]) = false := by
  simp [startedSinceReset_append_one]

/-- An event that is neither a RESET nor an accepted START says nothing of the status. -/
theorem startedSinceReset_append_other (l : List (Event d)) {e : Event d} (hr : e ≠ .reset) (hs : e ≠ .started) :
    startedSinceReset (l ++ [e]) = startedSinceReset l := by
  rw [startedSinceReset_append_one, if_neg hr, if_neg hs]

/-- Every operation keeps the agreement of BUSY and DONE with the past: an accepted START and RESET note in the log what
they do to the flags, and the last EMIT sets DONE in a scan, which has a START behind it. -/
theorem statusHistory_of_effect (h : StatusHistory s) (he : Effect s i t) : StatusHistory t := by
  cases he with
  | quiet => exact h
  | computed _ r => exact statusHistory_congr h rfl rfl (startedSinceReset_append_other _ nofun nofun)
  | read _ idx => exact statusHistory_congr h rfl rfl (startedSinceReset_append_other _ nofun nofun)
  | illegalRead => exact statusHistory_congr h rfl rfl (startedSinceReset_append_other _ nofun nofun)
  | dropped | mode | width | height => exact statusHistory_congr h rfl rfl rfl
  | started => exact ⟨fun _ => startedSinceReset_append_started s.log, nofun⟩
  | fetched => exact statusHistory_congr h rfl rfl (startedSinceReset_append_other _ nofun nofun)
  | sent v hm =>
    have hlog : startedSinceReset (s.log ++ [.sent v (lastByte s.block)]) = startedSinceReset s.log :=
      startedSinceReset_append_other _ nofun nofun
    by_cases hl : lastByte s.block = true
    · have hstarted := hlog.trans (h.busy (emitEnabled_iff.1 hm).1)
      have hdone : (emitBlock s.block).done = true := by simp [emitBlock_done, hl]
      exact ⟨fun _ => hstarted, fun _ => hdone.trans hstarted.symm⟩
    · exact statusHistory_congr h (by simp [emitBlock_phase, hl]) (by simp [emitBlock_done, hl]) hlog
  | reset => exact ⟨nofun, fun _ => (startedSinceReset_append_reset s.log).symm⟩

theorem statusHistory_stepAt (h : StatusHistory s) (hstep : stepAt s = .next t) : StatusHistory t :=
  stepAt_keeps (P := StatusHistory) (fun _ _ h => ⟨h.busy, h.idle⟩) (fun _ _ _ => statusHistory_of_effect) h hstep

/-- Settles O38: the step at every width, and the default machine as one of the widths. -/
theorem stepKeepsStatusHistory : Obligations.StepKeepsStatusHistory :=
  ⟨fun s _ h hstep => statusHistory_stepAt h (step_eq_stepAt s ▸ hstep), fun _ _ _ => statusHistory_stepAt⟩

end Sys2Proof.Machine
end

section
/-! Which operation writes which element of the block. -/

namespace Sys2Proof.Machine

variable {d : Nat} {s t : State d} {i : Instr d}

@[simp] theorem readReg_block (idx : BitVec 3) (s : State d) : (s.readReg idx).block = s.block := rfl

theorem getLsbD_err_raise {b : Block d} {k : Nat} (e : Cause) (h : b.err.getLsbD k = true) :
    (raise e b).err.getLsbD k = true := by
  simp [h]

/-- No operation but RESET clears a bit of ERR (R34). -/
theorem effect_keeps_fault_bit (he : Effect s i t) (hr : i ≠ .reset) {k : Nat} (hk : s.block.err.getLsbD k = true) :
    t.block.err.getLsbD k = true := by
  cases he with
  | illegalRead => exact getLsbD_err_raise .ill hk
  | dropped _ e => exact getLsbD_err_raise e hk
  | sent v => simpa using hk
  | reset => exact absurd rfl hr
  | _ => exact hk

/-- Settles O30: a step that does not run RESET has an effect that keeps each bit of ERR set; RESET itself clears them. -/
theorem faultBitsAreSticky : Obligations.FaultBitsAreSticky := by
  constructor
  · intro s t k h hreset hk
    rcases step_effect h with ⟨-, rfl⟩ | ⟨w, rest, i, hp, hw, he⟩
    · exact hk
    · exact effect_keeps_fault_bit he (fun hi => hreset w rest hp (hi ▸ hw)) hk
  · intro s t h
    cases h
    rfl

/-- A configuration write takes effect only in idle, so the configuration is kept while a scan runs, and by FETCH and EMIT
always (R21, R67). -/
theorem effect_keeps_config (he : Effect s i t) (hr : i ≠ .reset)
    (hfrozen : s.block.phase = .scan ∨ i = .emit ∨ ∃ a, i = .fetch a) :
    t.block.alpha = s.block.alpha ∧ t.block.width = s.block.width ∧ t.block.height = s.block.height := by
  cases he with
  | mode _ hb | width _ hb | height _ hb => simp [busy_eq_false_iff.1 hb] at hfrozen
  | sent => exact ⟨emitBlock_alpha _, emitBlock_width _, emitBlock_height _⟩
  | reset => exact absurd rfl hr
  | _ => exact ⟨rfl, rfl, rfl⟩

/-- Settles O44: only a configuration write changes the configuration, and in a scan it is dropped. -/
theorem configurationFrozenDuringScan : Obligations.ConfigurationFrozenDuringScan :=
  fun _ _ _ h hr hfrozen => effect_keeps_config (exec_effect h) hr hfrozen

/-- What an operation writes beside ERR (R20): each change of an element names the operation. -/
theorem effect_writes (he : Effect s i t) (hr : i ≠ .reset) :
    (t.block.alpha ≠ s.block.alpha → ∃ a, i = .wrMode a) ∧
    (t.block.width ≠ s.block.width → ∃ w, i = .wrWidth w) ∧
    (t.block.height ≠ s.block.height → ∃ h, i = .wrHeight h) ∧
    (t.block.hold ≠ s.block.hold → ∃ a, i = .fetch a) ∧
    (t.block.x ≠ s.block.x ∨ t.block.y ≠ s.block.y → i = .start ∨ i = .wrCtrl 1 ∨ ∃ a, i = .fetch a) ∧
    (t.block.nb ≠ s.block.nb → i = .start ∨ i = .wrCtrl 1 ∨ i = .emit ∨ ∃ a, i = .fetch a) ∧
    (t.block.count ≠ s.block.count → i = .start ∨ i = .wrCtrl 1 ∨ i = .emit) ∧
    (t.block.phase ≠ s.block.phase ∨ t.block.done ≠ s.block.done → i = .start ∨ i = .wrCtrl 1 ∨ i = .emit) := by
  cases he with
  | started _ hi => rcases hi with rfl | rfl <;> simp
  | reset => exact absurd rfl hr
  | _ => simp

/-- FETCH leaves the block or does its block step. -/
theorem execAt_fetch_block {answer : Option Sample} (h : execAt (.fetch answer) s = .next t) :
    t.block = s.block ∨ ∃ p, t.block = fetchBlock p s.block := by
  simp only [execAt, execFetch] at h
  split at h
  · cases h; exact .inr ⟨_, rfl⟩
  · cases h; exact .inl rfl

/-- EMIT leaves the block or does its block step. -/
theorem execAt_emit_block (h : execAt .emit s = .next t) : t.block = s.block ∨ t.block = emitBlock s.block := by
  simp only [execAt, execEmit] at h
  split at h
  · cases h; exact .inl rfl
  · split at h
    · cases h
    · split at h
      · cases h
      · cases h; exact .inr rfl

/-- A write of CTRL without the START bit does nothing (R151). -/
theorem execAt_wrCtrl_of_ne_one {a : BitVec 1} (ha : a ≠ 1) (h : execAt (.wrCtrl a) s = .next t) : t = s := by
  have hclear : ¬bitSet a = true := by simpa [bitSet] using ha
  simp only [execAt, execWrCtrl, if_neg hclear] at h
  cases h
  rfl

/-- Only START, the configuration writes and the illegal transactions write ERR (R20, R34, R191). -/
theorem execAt_writes_err (h : execAt i s = .next t) (hr : i ≠ .reset) (herr : t.block.err ≠ s.block.err) :
    i = .start ∨ i = .wrCtrl 1 ∨ (∃ a, i = .wrMode a) ∨ (∃ w, i = .wrWidth w) ∨ (∃ h, i = .wrHeight h) ∨ i = .illRd ∨
      (∃ v, i = .illWrStatus v) ∨ (∃ v, i = .illWrCount v) ∨ (∃ v, i = .illWrErr v) ∨ (∃ v, i = .illWrUnmapped v) ∨
      ∃ idx v, i = .illWrReserved idx v := by
  cases i with
  | start | wrMode | wrWidth | wrHeight | illRd | illWrStatus | illWrCount | illWrErr | illWrUnmapped | illWrReserved => simp
  | wrCtrl a =>
    by_cases ha : a = 1
    · exact .inr (.inl (ha ▸ rfl))
    · exact absurd (execAt_wrCtrl_of_ne_one ha h ▸ rfl) herr
  | fetch answer => rcases execAt_fetch_block h with ht | ⟨p, ht⟩ <;> simp [ht] at herr
  | emit => rcases execAt_emit_block h with ht | ht <;> simp [ht] at herr
  | reset => exact absurd rfl hr
  | unreachable => cases h
  | _ => cases h; exact absurd rfl herr

/-- Settles O42: ERR by the operations that can take a fault, the other ten elements by the effects an operation can have. -/
theorem elementsWrittenOnlyByTheirOperations : Obligations.ElementsWrittenOnlyByTheirOperations := by
  intro i s t h hr
  obtain ⟨halpha, hwidth, hheight, hhold, hpos, hnb, hcount, hflags⟩ := effect_writes (exec_effect h) hr
  exact ⟨halpha, hwidth, hheight, hhold, hpos, hnb, hcount, hflags, execAt_writes_err (exec_eq_execAt i s ▸ h) hr⟩

end Sys2Proof.Machine
end

section
/-! What an enabled FETCH and an EMIT answer, and offers that the block does not take. -/

namespace Sys2Proof.Machine

variable {d : Nat} {b : Block d} {s t : State d} {i : Instr d}

theorem pend_iff : pend b = true ↔ b.nb ≠ 0 := by simp [pend]

/-- With a byte pending the sink is the one asked, not the pixel source (R135). -/
theorem not_fetchEnabled_of_nb_ne_zero (hnb : b.nb ≠ 0) : ¬fetchEnabled b = true :=
  fun hf => hnb (fetchEnabled_iff.1 hf).2

/-- A FETCH where a request stands (R132). -/
theorem execAt_fetch_of_enabled (answer : Option Sample) (h : fetchEnabled s.block = true) :
    execAt (.fetch answer) s =
      .next (((pixAnswer answer s).2.record (.fetched s.block.x s.block.y (pixAnswer answer s).1)).setBlock
        (fetchBlock (pixAnswer answer s).1 s.block)) :=
  if_pos h

/-- An answer where no request stands (R61). -/
theorem execAt_fetch_of_not_enabled (answer : Option Sample) (h : ¬fetchEnabled s.block = true) :
    execAt (.fetch answer) s = .next s :=
  if_neg h

/-- An EMIT where a byte is offered (R134). -/
theorem execAt_emit_of_enabled (h : emitEnabled s.block = true) {v : Byte} (hv : nextByte s.block = some v) :
    execAt .emit s = .next ((s.outByte v (lastByte s.block)).setBlock (emitBlock s.block)) := by
  obtain ⟨hs, hnb⟩ := emitEnabled_iff.1 h
  have hpend : pend s.block ≠ false := by simp [pend_iff.2 hnb]
  have hbusy : busy s.block ≠ false := by simp [busy, hs]
  simp only [execAt, execEmit, if_neg hpend, if_neg hbusy, hv]

/-- An acceptance where no byte is offered (R62). -/
theorem execAt_emit_of_nb_eq_zero (h : s.block.nb = 0) : execAt .emit s = .next s :=
  if_pos (by simp [pend, h])

/-- Settles O10: FETCH and EMIT where they are not enabled, and the idle turn. -/
theorem offersNotTakenChangeNothing : Obligations.OffersNotTakenChangeNothing :=
  ⟨fun s answer h => (exec_eq_execAt _ s).trans (execAt_fetch_of_not_enabled answer (mt fetchEnabled_iff.1 h)),
    fun s h => (exec_eq_execAt _ s).trans (execAt_emit_of_nb_eq_zero h), fun _ => rfl⟩

end Sys2Proof.Machine
end

section
/-! The memories behind the ports: who writes them, and where. -/

namespace Sys2Proof.Machine

variable {d : Nat} {s t : State d} {i : Instr d}

/-- Settles O13: the EMIT is one write to the memory, at COUNT. -/
theorem emitStoresOneByteAtCount : Obligations.EmitStoresOneByteAtCount := by
  intro s t v h he hv
  rw [exec_eq_execAt, execAt_emit_of_enabled he hv] at h
  cases h
  exact ⟨Memory.read_write_same _ _ v, fun a ha => Memory.read_write_other _ v ha⟩

/-- Only EMIT writes the output space, and only at COUNT (R52). -/
theorem effect_keeps_offset (he : Effect s i t) {a : Nat} (ha : i ≠ .emit ∨ a ≠ s.block.count.toNat) :
    Memory.read t.out a = Memory.read s.out a := by
  cases he with
  | sent v => exact Memory.read_write_other _ v (ha.resolve_left (absurd rfl))
  | _ => rfl

/-- No operation writes the pixel space or the schedule. -/
theorem effect_keeps_pix_pending (he : Effect s i t) : t.pix = s.pix ∧ t.pending = s.pending := by
  cases he <;> exact ⟨rfl, rfl⟩

/-- A free value is drawn by RESET, or by a FETCH that takes its sample from the image (log entry 19). -/
theorem effect_draws_free (he : Effect s i t) (hfree : t.free ≠ s.free) : i = .reset ∨ i = .fetch none := by
  cases he with
  | fetched answer p free' _ hp =>
    cases answer with
    | none => exact .inr rfl
    | some q => exact absurd (congrArg (fun r => r.2.free) hp).symm hfree
  | reset => exact .inl rfl
  | _ => exact absurd rfl hfree

/-- Settles O43: the memories and the model's own fields, each through the effects an operation can have. -/
theorem memoriesWrittenOnlyByEmit : Obligations.MemoriesWrittenOnlyByEmit := by
  intro i s t h
  have he := exec_effect h
  obtain ⟨hpix, hpending⟩ := effect_keeps_pix_pending he
  exact ⟨fun _ => effect_keeps_offset he, hpix, hpending, effect_draws_free he⟩

end Sys2Proof.Machine
end

section
/-! The row a register transaction decodes to does to the block what the transaction of R150 does. -/

namespace Sys2Proof.Machine

variable {d : Nat} {b : Block d}

/-- The eight indices of the register port (R27). -/
theorem idx_cases (idx : BitVec 3) :
    idx = 0 ∨ idx = 1 ∨ idx = 2 ∨ idx = 3 ∨ idx = 4 ∨ idx = 5 ∨ idx = 6 ∨ idx = 7 := by
  revert idx
  decide

/-- A read of index 7 is the row ILL.RD, of every other index a read of that register (R85). -/
theorem execAt_decodeRegt_read (idx : BitVec 3) (wdata : RegData d) (s : State d) :
    execAt (decodeRegt false idx wdata) s = if idx = 7 then execIllRd s else .next (s.readReg idx) := by
  rcases idx_cases idx with rfl | rfl | rfl | rfl | rfl | rfl | rfl | rfl <;> rfl

/-- The registers the host may write are CTRL, MODE, WIDTH and HEIGHT (R27). -/
theorem writable_idx {idx : BitVec 3} (h : ¬readOnlyIdx idx = true) : idx = 0 ∨ idx = 2 ∨ idx = 3 ∨ idx = 4 := by
  revert idx
  decide

/-- A write to a register the host may never write only raises E_ILL (R162). -/
theorem execAt_decodeRegt_readOnly {idx : BitVec 3} (h : readOnlyIdx idx = true) (wdata : RegData d) (s : State d) :
    execAt (decodeRegt true idx wdata) s = .next s.illegalWrite := by
  simp only [decodeRegt, h, if_true, reduceCtorEq, if_false]
  split <;> rfl

/-- So does a write with a reserved bit set. -/
theorem execAt_decodeRegt_reserved {idx : BitVec 3} (hro : ¬readOnlyIdx idx = true) {wdata : RegData d}
    (h : reservedSet idx wdata = true) (s : State d) :
    execAt (decodeRegt true idx wdata) s = .next s.illegalWrite := by
  simp only [decodeRegt, hro, h, if_true, reduceCtorEq, if_false]
  rfl

theorem start_block (s : State d) : s.start.block = startBlock s.block := by
  unfold State.start
  split <;> rfl

/-- The rows START and WR.CTRL, which share the writes of CTRL (log entry 13), do WR.CTRL on the block. -/
theorem execAt_ctrlRow_block (a : BitVec 1) (s : State d) :
    ∃ t, execAt (if bitSet a then .start else .wrCtrl 0) s = .next t ∧ t.block = writeCtrl a s.block := by
  unfold writeCtrl
  split
  · exact ⟨s.start, rfl, start_block s⟩
  · exact ⟨s, rfl, rfl⟩

/-- Every transaction completes and does to the block what R150 says. -/
theorem execAt_decodeRegt_block (we : Bool) (idx : BitVec 3) (wdata : RegData d) (s : State d) :
    ∃ t, execAt (decodeRegt we idx wdata) s = .next t ∧ t.block = (regTxn we idx wdata s.block).1 := by
  cases we with
  | false =>
    rw [execAt_decodeRegt_read]
    by_cases h7 : idx = 7
    · exact ⟨_, if_pos h7, by simp [regTxn, h7]⟩
    · exact ⟨_, if_neg h7, by rw [regTxn, if_neg fun hc => h7 hc.2, if_pos rfl, readReg_block]⟩
  | true =>
    by_cases hro : readOnlyIdx idx = true
    · exact ⟨_, execAt_decodeRegt_readOnly hro wdata s, by simp [regTxn, hro, State.illegalWrite]⟩
    by_cases hres : reservedSet idx wdata = true
    · exact ⟨_, execAt_decodeRegt_reserved hro hres s, by simp [regTxn, hro, hres, State.illegalWrite]⟩
    simp only [decodeRegt, regTxn, hro, hres, if_false, reduceCtorEq, false_and]
    rcases writable_idx hro with rfl | rfl | rfl | rfl
    · exact execAt_ctrlRow_block (bitField wdata) s
    · exact ⟨_, rfl, rfl⟩
    · exact ⟨_, rfl, rfl⟩
    · exact ⟨_, rfl, rfl⟩

/-- During a scan the transaction's only effect on the block is on ERR. -/
theorem regTxn_err_only_of_scan (hs : b.phase = .scan) (we : Bool) (idx : BitVec 3) (wdata : RegData d) :
    (regTxn we idx wdata b).1 = { b with err := (regTxn we idx wdata b).1.err } := by
  rcases regTxn_of_scan hs we idx wdata with h | ⟨e, h⟩
  · rw [h]
  · rw [h, raise]

/-- Settles O45: the row does the transaction of R150, which in a scan does nothing but raise a fault. -/
theorem transactionsNeverDisturbAScan : Obligations.TransactionsNeverDisturbAScan := by
  intro we idx wdata s t hs h
  obtain ⟨u, hu, hblock⟩ := execAt_decodeRegt_block we idx wdata s
  rw [exec_eq_execAt, hu] at h
  cases h
  rw [hblock]
  exact regTxn_err_only_of_scan hs we idx wdata

end Sys2Proof.Machine
end

section
/-! What the ports show under R40. -/

namespace Sys2Proof.Machine

open Sys2Proof.Safety

variable {d : Nat} {b : Block d} {s t : State d} {i : Instr d}

/-- What the pixel port shows is the position of the pending request (R61). -/
theorem pixPort_eq_some_iff {x y : BitVec d} : pixPort b = some (x, y) ↔ fetchEnabled b = true ∧ x = b.x ∧ y = b.y := by
  by_cases hf : fetchEnabled b = true
  · simp [pixPort, hf, @eq_comm _ x, @eq_comm _ y]
  · simp [pixPort, hf]

/-- What the output port shows is the pending byte with its marker (R62). -/
theorem outPort_eq_some_iff {v : Byte} {last : Bool} :
    outPort b = some (v, last) ↔ b.nb ≠ 0 ∧ nextByte b = some v ∧ lastByte b = last := by
  by_cases hp : pend b = true
  · rw [outPort, if_pos hp, and_iff_right (pend_iff.1 hp)]
    cases nextByte b with
    | none => simp only [Option.map_none, reduceCtorEq, false_and]
    | some u => simp only [Option.map_some, Option.some.injEq, Prod.mk.injEq]
  · rw [outPort, if_neg hp]
    exact ⟨nofun, fun h => absurd (pend_iff.2 h.1) hp⟩

/-- The output port does not show ERR. -/
theorem outPort_raise (e : Cause) (b : Block d) : outPort (raise e b) = outPort b := rfl

section
variable (h : BlockInv b)
include h

/-- Bytes are pending only during a scan (R40 item 1). -/
theorem phase_scan_of_nb_ne_zero (hnb : b.nb ≠ 0) : b.phase = .scan := by
  cases hp : b.phase with
  | idle => exact absurd (h.idleNb hp) hnb
  | scan => rfl

theorem emitEnabled_of_nb_ne_zero (hnb : b.nb ≠ 0) : emitEnabled b = true :=
  emitEnabled_iff.2 ⟨phase_scan_of_nb_ne_zero h hnb, hnb⟩

/-- Where EMIT is enabled a lane holds its byte. -/
theorem nextByte_of_emitEnabled (he : emitEnabled b = true) : ∃ v, nextByte b = some v := by
  obtain ⟨hs, hnb⟩ := emitEnabled_iff.1 he
  obtain ⟨-, -, -, -, hle⟩ := h.scanRange hs
  obtain ⟨v, hv, -⟩ := queue_eq_cons hnb hle
  exact ⟨v, hv⟩

/-- The coordinates on the pixel port are those of a pixel of the image (R61). -/
theorem pixPort_in_grid {x y : BitVec d} (hport : pixPort b = some (x, y)) :
    x.toNat < b.width.toNat ∧ y.toNat < b.height.toNat := by
  obtain ⟨hf, rfl, rfl⟩ := pixPort_eq_some_iff.1 hport
  obtain ⟨hs, -⟩ := fetchEnabled_iff.1 hf
  obtain ⟨-, -, hx, -, -⟩ := h.scanRange hs
  exact ⟨hx, (pixelsFetched_lt h hs (y_ne_height_of_fetchEnabled h hf)).1⟩

/-- The output port offers a byte exactly when one is pending (R62). -/
theorem outPort_isSome_iff : (outPort b).isSome = true ↔ b.nb ≠ 0 := by
  constructor
  · intro hport
    obtain ⟨⟨v, last⟩, hv⟩ := Option.isSome_iff_exists.1 hport
    exact (outPort_eq_some_iff.1 hv).1
  · intro hnb
    obtain ⟨v, hv⟩ := nextByte_of_emitEnabled h (emitEnabled_of_nb_ne_zero h hnb)
    exact Option.isSome_iff_exists.2 ⟨_, outPort_eq_some_iff.2 ⟨hnb, hv, rfl⟩⟩

end

/-- While a byte is offered only EMIT and RESET change the output port: the configuration is frozen, no START is accepted,
no FETCH is enabled, and a fault shows in ERR alone. -/
theorem effect_keeps_outPort (h : BlockInv s.block) (he : Effect s i t) (hemit : i ≠ .emit) (hreset : i ≠ .reset)
    (hnb : s.block.nb ≠ 0) : outPort t.block = outPort s.block := by
  have hs := phase_scan_of_nb_ne_zero h hnb
  cases he with
  | illegalRead => exact outPort_raise .ill s.block
  | dropped _ e => exact outPort_raise e s.block
  | mode _ hb | width _ hb | height _ hb => simp [busy, hs] at hb
  | started _ _ ha => exact absurd hs (startAccepted_iff.1 ha).1
  | fetched _ _ _ hf => exact absurd hf (not_fetchEnabled_of_nb_ne_zero hnb)
  | sent => exact absurd rfl hemit
  | reset => exact absurd rfl hreset
  | quiet | computed | read => rfl

/-- Settles O54: what each port shows, by its equation, and the stability of the output port by the effects an operation
can have. -/
theorem portsShowTheEnabledStep : Obligations.PortsShowTheEnabledStep := by
  refine ⟨fun d b h => ⟨fun _ _ => pixPort_eq_some_iff, fun _ _ => pixPort_in_grid h, outPort_isSome_iff h, ?_⟩, ?_⟩
  · intro v last hport
    obtain ⟨-, hv, rfl⟩ := outPort_eq_some_iff.1 hport
    exact ⟨hv, lastByte_iff⟩
  · intro i s t h hstep hemit hreset hport
    exact effect_keeps_outPort h (exec_effect hstep) hemit hreset ((outPort_isSome_iff h).1 hport)

end Sys2Proof.Machine
end

section
/-! One rising edge of the pins, as atomic steps. -/

namespace Sys2Proof.Machine

open Sys2Proof.Safety

variable {d : Nat} {p : PinsIn d} {b : Block d} {s t u : State d} {i : Instr d}

/-- The block step `i` that the pins take from a block `b` (R61, R62), with what it does to the block. -/
inductive Taken (p : PinsIn d) (b : Block d) : Instr d → (Block d → Block d) → Prop where
  | fetch (hf : fetchEnabled b = true) (hv : p.pixValid = true) : Taken p b (.fetch (some p.pix)) (fetchBlock p.pix)
  | emit (he : emitEnabled b = true) (hr : p.outReady = true) : Taken p b .emit emitBlock

/-- EMIT neither reads nor writes ERR. -/
theorem emitBlock_with_err (b : Block d) (err : BitVec 3) :
    emitBlock { b with err := err } = { emitBlock b with err := err } :=
  (emitBlock_hold_err b b.hold err).trans (by simp only [emitBlock_hold])

section
variable {f : Block d → Block d} (h : Taken p b i f)
include h

/-- A block step is taken only during a scan. -/
theorem Taken.phase : b.phase = .scan := by
  cases h with
  | fetch hf => exact (fetchEnabled_iff.1 hf).1
  | emit he => exact (emitEnabled_iff.1 he).1

/-- The edge's block step is the one taken, judged on `b`. -/
theorem Taken.edgeBlock_eq (s : State d) : edgeBlock p b s = execAt i s := by
  cases h with
  | fetch hf hv => exact if_pos (by simp [hf, hv])
  | emit he hr =>
    have hnb := (emitEnabled_iff.1 he).2
    have hf : ¬(fetchEnabled b && p.pixValid) = true := by simp [not_fetchEnabled_of_nb_ne_zero hnb]
    rw [edgeBlock, if_neg hf, if_pos (by simp [pend_iff.2 hnb, hr])]

/-- The step taken completes, also where ERR is no longer what it was in `b`, and leaves ERR alone. -/
theorem Taken.completes (hb : BlockInv b) {err : BitVec 3} (hs : s.block = { b with err := err }) :
    ∃ t, execAt i s = .next t ∧ t.block = { f b with err := err } := by
  cases h with
  | fetch hf =>
    have hf' : fetchEnabled s.block = true := hs ▸ hf
    exact ⟨_, execAt_fetch_of_enabled (some p.pix) hf', congrArg (fetchBlock p.pix) hs⟩
  | emit he =>
    obtain ⟨v, hv⟩ := nextByte_of_emitEnabled hb he
    have he' : emitEnabled s.block = true := hs ▸ he
    have hv' : nextByte s.block = some v := hs ▸ hv
    exact ⟨_, execAt_emit_of_enabled he' hv', (congrArg emitBlock hs).trans (emitBlock_with_err b err)⟩

end

/-- An edge without reset whose transaction completes goes on to the block step, judged on the block before the edge. -/
theorem edge_of_edgeReg (hrst : p.rst = false) (h : edgeReg p s = .next u) : edge p s = edgeBlock p s.block u := by
  simp [edge, hrst, h]

theorem edgeReg_of_regValid (h : p.regValid = true) (s : State d) :
    edgeReg p s = execAt (decodeRegt p.regWe p.regIdx p.regWdata) s :=
  if_pos h

theorem edgeReg_of_not_regValid (h : p.regValid = false) (s : State d) : edgeReg p s = .next s :=
  if_neg (by simp [h])

/-- The transaction of an edge always completes. -/
theorem edgeReg_completes (p : PinsIn d) (s : State d) : ∃ u, edgeReg p s = .next u := by
  cases hv : p.regValid with
  | false => exact ⟨s, edgeReg_of_not_regValid hv s⟩
  | true =>
    obtain ⟨u, hu, -⟩ := execAt_decodeRegt_block p.regWe p.regIdx p.regWdata s
    exact ⟨u, (edgeReg_of_regValid hv s).trans hu⟩

/-- Where no partner takes the block's offer the edge is its transaction, or nothing. -/
theorem edge_of_no_offer_taken (hrst : p.rst = false) (hpix : fetchEnabled s.block = true → p.pixValid = false)
    (hout : s.block.nb ≠ 0 → p.outReady = false) : edge p s = edgeReg p s := by
  obtain ⟨u, hu⟩ := edgeReg_completes p s
  have hfetch : ¬(fetchEnabled s.block && p.pixValid) = true := by simpa using hpix
  have hemit : ¬(pend s.block && p.outReady) = true := by simpa [pend_iff] using hout
  rw [edge_of_edgeReg hrst hu, hu, edgeBlock, if_neg hfetch, if_neg hemit]

/-- With a transaction at the edge of a block step both happen, in this order: the transaction shows in ERR alone, the rest
is the block step's. -/
theorem Taken.edge_of_regValid {f : Block d → Block d} (h : Taken p s.block i f) (hb : BlockInv s.block)
    (hrst : p.rst = false) (hreg : p.regValid = true) :
    ∃ u t v, execAt (decodeRegt p.regWe p.regIdx p.regWdata) s = .next u ∧ execAt i u = .next t ∧
      execAt i s = .next v ∧ edge p s = .next t ∧
      u.block = (regTxn p.regWe p.regIdx p.regWdata s.block).1 ∧ t.block = { v.block with err := u.block.err } := by
  obtain ⟨u, hu, hublock⟩ := execAt_decodeRegt_block p.regWe p.regIdx p.regWdata s
  have herr : u.block = { s.block with err := u.block.err } :=
    hublock ▸ regTxn_err_only_of_scan h.phase p.regWe p.regIdx p.regWdata
  obtain ⟨t, ht, htblock⟩ := h.completes hb herr
  obtain ⟨v, hv, hvblock⟩ := h.completes (s := s) hb rfl
  have hedge : edge p s = .next t := by
    rw [edge_of_edgeReg hrst ((edgeReg_of_regValid hreg s).trans hu), h.edgeBlock_eq, ht]
  exact ⟨u, t, v, hu, ht, hv, hedge, hublock, by rw [htblock, hvblock]⟩

/-- Without a transaction the edge is the block step alone, which completes. -/
theorem Taken.edge_of_not_regValid {f : Block d → Block d} (h : Taken p s.block i f) (hb : BlockInv s.block)
    (hrst : p.rst = false) (hreg : p.regValid = false) :
    edge p s = execAt i s ∧ ∃ t, execAt i s = .next t := by
  obtain ⟨t, ht, -⟩ := h.completes (s := s) hb rfl
  exact ⟨by rw [edge_of_edgeReg hrst (edgeReg_of_not_regValid hreg s), h.edgeBlock_eq], t, ht⟩

/-- Settles O55: the step taken is a FETCH or an EMIT, and each says the same of the edge; where none is taken the edge is
its transaction. -/
theorem edgeIsTransactionThenBlockStep : Obligations.EdgeIsTransactionThenBlockStep := by
  intro p s hb hrst
  simp only [exec_eq_execAt]
  refine ⟨fun i hi => ?_, fun hpix hout => ?_⟩
  · obtain ⟨f, h⟩ : ∃ f, Taken p s.block i f := by
      rcases hi with ⟨rfl, hf, hv⟩ | ⟨rfl, he, hr⟩
      · exact ⟨_, .fetch hf hv⟩
      · exact ⟨_, .emit he hr⟩
    exact ⟨h.edge_of_not_regValid hb hrst, h.edge_of_regValid hb hrst⟩
  · exact edge_of_no_offer_taken hrst hpix fun hnb => hout (emitEnabled_of_nb_ne_zero hb hnb)

/-- Settles O56: RESET by the first branch of the edge; with nothing valid and nothing ready, and in idle, no offer is
taken. -/
theorem edgeResetAndQuiet : Obligations.EdgeResetAndQuiet := by
  simp only [Obligations.EdgeResetAndQuiet, exec_eq_execAt]
  refine ⟨fun p s hrst => if_pos hrst, fun p s hrst hreg hpix hout => ?_, fun p s hb hrst hreg hidle => ?_⟩
  · rw [edge_of_no_offer_taken hrst (fun _ => hpix) (fun _ => hout), edgeReg_of_not_regValid hreg]
  · have hno_fetch : ¬fetchEnabled s.block = true := by simp [fetchEnabled_iff, hidle]
    rw [edge_of_no_offer_taken hrst (absurd · hno_fetch) (absurd (hb.idleNb hidle)), edgeReg_of_regValid hreg]

end Sys2Proof.Machine
end

section
/-! The pixel functions as fields and concatenations of bits (40_pixel_pack.md), and the records they build. -/

namespace Sys2Proof.Machine

/-- QR5 keeps the five high bits (R111). -/
theorem qr5_eq_extractLsb' (r : Byte) : qr5 r = r.extractLsb' 3 5 := by
  revert r
  decide

/-- QG6 keeps the six high bits (R112). -/
theorem qg6_eq_extractLsb' (g : Byte) : qg6 g = g.extractLsb' 2 6 := by
  revert g
  decide

/-- QB5 is QR5 on blue (R113). -/
theorem qb5_eq_extractLsb' (b : Byte) : qb5 b = b.extractLsb' 3 5 :=
  qr5_eq_extractLsb' b

/-- PK565 concatenates its three fields, red highest (R114). -/
theorem pk565_eq_append (r5 : BitVec 5) (g6 : BitVec 6) (b5 : BitVec 5) :
    pk565 r5 g6 b5 = (r5 ++ g6 ++ b5 : BitVec (5 + 6 + 5)) := by
  ext i hi
  simp only [pk565, BitVec.getElem_or, BitVec.getElem_shiftLeft, BitVec.getElem_setWidth]
  grind

/-- A mask of the low byte is no more than the cut to it. -/
theorem setWidth_and_mask (v : BitVec 16) : (v &&& 0xFF#16).setWidth 8 = v.extractLsb' 0 8 := by
  apply BitVec.eq_of_toNat_eq
  simp [Nat.and_two_pow_sub_one_eq_mod _ 8]

/-- SPLIT, the high byte (R115). -/
theorem highByte_eq_extractLsb' (px : BitVec 16) : highByte px = px.extractLsb' 8 8 := by
  rw [highByte, setWidth_and_mask]
  ext i hi
  simp

/-- SPLIT, the low byte (R115). -/
theorem lowByte_eq_extractLsb' (px : BitVec 16) : lowByte px = px.extractLsb' 0 8 :=
  setWidth_and_mask px

/-- The packed pixel of a sample, field by field (R81). -/
theorem pix16_eq_append (p : Sample) :
    pix16 p = (p.r.extractLsb' 3 5 ++ p.g.extractLsb' 2 6 ++ p.b.extractLsb' 3 5 : BitVec (5 + 6 + 5)) := by
  rw [pix16, pk565_eq_append, qr5_eq_extractLsb', qg6_eq_extractLsb', qb5_eq_extractLsb']

/-- The first byte of a record: red, and the high half of green (R82). -/
theorem highByte_pix16 (p : Sample) :
    highByte (pix16 p) = (p.r.extractLsb' 3 5 ++ p.g.extractLsb' 5 3 : BitVec (5 + 3)) := by
  rw [highByte_eq_extractLsb', pix16_eq_append]
  ext i hi
  simp only [BitVec.getElem_extractLsb', BitVec.getLsbD_append]
  grind

/-- The second byte of a record: the low half of green, and blue (R82). -/
theorem lowByte_pix16 (p : Sample) :
    lowByte (pix16 p) = (p.g.extractLsb' 2 3 ++ p.b.extractLsb' 3 5 : BitVec (3 + 5)) := by
  rw [lowByte_eq_extractLsb', pix16_eq_append]
  ext i hi
  simp only [BitVec.getElem_extractLsb', BitVec.getLsbD_append]
  grind

/-- Settles O4: both rows record the bytes of the packed pixel, PACK.RGBA the alpha byte after them. -/
theorem recordLayout : Obligations.RecordLayout := by
  intro s p
  rw [← highByte_pix16, ← lowByte_pix16]
  exact ⟨rfl, rfl⟩

end Sys2Proof.Machine
end

section
/-! The selector of a state (R87), and where the model stops. -/

namespace Sys2Proof.Machine

open Sys2Proof.Safety

variable {d : Nat} {b : Block d} {s : State d}

/-- `SEL = {PHASE, PEND, ALPHA}`, bit by bit (R87). -/
theorem sel_getLsbD (b : Block d) :
    (sel b).getLsbD 2 = busy b ∧ (sel b).getLsbD 1 = pend b ∧ (sel b).getLsbD 0 = b.alpha := by
  unfold sel
  cases busy b <;> cases pend b <;> cases b.alpha <;> decide

/-- The step the selector of a state selects: ALPHA does not matter (R87). -/
theorem decodeSel_sel (b : Block d) :
    decodeSel (sel b) = (if busy b then if pend b then .emit else .fetch none
      else if pend b then .unreachable else .idle : Instr d) := by
  unfold sel
  cases busy b <;> cases pend b <;> cases b.alpha <;> rfl

theorem busy_iff : busy b = true ↔ b.phase = .scan := by simp [busy]

theorem pend_eq_false_iff : pend b = false ↔ b.nb = 0 := by simp [pend]

/-- Settles O15: the bits of the selector, and the row for each value of PHASE and PEND. -/
theorem selectorTable : Obligations.SelectorTable := by
  intro d b
  obtain ⟨hphase, hpend, halpha⟩ := sel_getLsbD b
  rw [hphase, hpend, halpha, decodeSel_sel]
  refine ⟨busy_iff, pend_iff, rfl, fun hp hnb => ?_, fun hp hnb => ?_, fun hp hnb => ⟨?_, fun p => pack_length b.alpha p⟩,
    fun hp hnb => ?_⟩
  · simp [busy_eq_false_iff.2 hp, pend_eq_false_iff.2 hnb]
  · simp [busy_eq_false_iff.2 hp, pend_iff.2 hnb]
  · simp [busy_iff.2 hp, pend_eq_false_iff.2 hnb]
  · simp [busy_iff.2 hp, pend_iff.2 hnb]

/-- An EMIT in idle with bytes pending is the selector value `0 1 -` (U13). -/
theorem execAt_emit_of_idle (hp : s.block.phase = .idle) (hnb : s.block.nb ≠ 0) :
    execAt .emit s = .refused .unreachableSelector := by
  simp [execAt, execEmit, pend_iff.2 hnb, busy_eq_false_iff.2 hp]

/-- An EMIT in a scan with more bytes pending than the record has finds no lane (R134; log entry 7). -/
theorem execAt_emit_of_no_lane (hp : s.block.phase = .scan) (hnb : bpp s.block.alpha < s.block.nb.toNat) :
    execAt .emit s = .fault .laneOutOfRange := by
  have hne : s.block.nb ≠ 0 := fun h0 => by simp [h0] at hnb
  have hnone : nextByte s.block = none := if_neg (Nat.not_le.2 hnb)
  simp [execAt, execEmit, pend_iff.2 hne, busy_iff.2 hp, hnone]

/-- Under R40 an EMIT completes: no byte is offered, or a lane holds the byte. -/
theorem execAt_emit_completes (h : BlockInv s.block) : ∃ t, execAt .emit s = .next t := by
  by_cases hnb : s.block.nb = 0
  · exact ⟨s, execAt_emit_of_nb_eq_zero hnb⟩
  · have he := emitEnabled_of_nb_ne_zero h hnb
    obtain ⟨v, hv⟩ := nextByte_of_emitEnabled h he
    exact ⟨_, execAt_emit_of_enabled he hv⟩

theorem execAt_fetch_completes (answer : Option Sample) (s : State d) : ∃ t, execAt (.fetch answer) s = .next t := by
  by_cases hf : fetchEnabled s.block = true
  · exact ⟨_, execAt_fetch_of_enabled answer hf⟩
  · exact ⟨s, execAt_fetch_of_not_enabled answer hf⟩

theorem execAt_wrCtrl_completes (a : BitVec 1) (s : State d) : ∃ t, execAt (.wrCtrl a) s = .next t := by
  by_cases ha : bitSet a = true
  · exact ⟨s.start, if_pos ha⟩
  · exact ⟨s, if_neg ha⟩

/-- Under R40 every operation but (unreachable) completes: only FETCH, EMIT and WR.CTRL look at anything first. -/
theorem execAt_completes (h : BlockInv s.block) {i : Instr d} (hi : i ≠ .unreachable) : ∃ t, execAt i s = .next t := by
  cases i with
  | emit => exact execAt_emit_completes h
  | fetch answer => exact execAt_fetch_completes answer s
  | wrCtrl a => exact execAt_wrCtrl_completes a s
  | unreachable => exact absurd rfl hi
  | _ => exact ⟨_, rfl⟩

/-- Settles O14: the row (unreachable), the two ways an EMIT stops, and that under R40 nothing else does. -/
theorem stopsOnlyOutsideInvariant : Obligations.StopsOnlyOutsideInvariant := by
  simp only [Obligations.StopsOnlyOutsideInvariant, exec_eq_execAt]
  exact ⟨fun _ => rfl, fun _ => execAt_emit_of_idle, fun _ => execAt_emit_of_no_lane, fun _ _ h hi => execAt_completes h hi⟩

end Sys2Proof.Machine
end

section
/-! The word of a register transaction, and the table of R85. -/

namespace Sys2Proof.Machine

open Sys2Proof.Laws

variable {d : Nat}

/-- A shift by `n` leaves something exactly when the value needs more than `n` bits. -/
theorem ushiftRight_bne_zero_iff {m : Nat} (v : BitVec m) (n : Nat) : (v >>> n != 0) = true ↔ ¬v.toNat < 2 ^ n := by
  rw [bne_iff_ne, BitVec.ofNat_eq_ofNat, BitVec.toNat_ne, BitVec.toNat_ushiftRight, BitVec.toNat_zero,
    Nat.shiftRight_eq_div_pow, Nat.div_ne_zero_iff, Nat.not_lt]
  exact and_iff_right (Nat.ne_of_gt (Nat.two_pow_pos n))

/-- So a test for reserved bits is a limit on the data. -/
theorem ite_ushiftRight {α : Type} {m : Nat} (v : BitVec m) (n : Nat) (a b : α) :
    (if v >>> n != 0 then a else b) = if v.toNat < 2 ^ n then b else a := by
  simp only [ushiftRight_bne_zero_iff, ite_not]

theorem toNat_setWidth_lt {n : Nat} (v : BitVec n) (m : Nat) : (v.setWidth m).toNat < 2 ^ n :=
  BitVec.toNat_setWidth m v ▸ Nat.lt_of_le_of_lt (Nat.mod_le _ _) v.isLt

/-- A value of `n` bits brought to another width has nothing above them. -/
theorem not_setWidth_ushiftRight {n : Nat} (v : BitVec n) (m : Nat) : ¬(v.setWidth m >>> n != 0) = true :=
  fun h => (ushiftRight_bne_zero_iff _ n).1 h (toNat_setWidth_lt v m)

theorem setWidth_setWidth_self {n m : Nat} (h : n ≤ m) (v : BitVec n) : (v.setWidth m).setWidth n = v := by
  rw [BitVec.setWidth_setWidth_of_le v h, BitVec.setWidth_eq]

/-- A payload has room for the write data of a transaction (log entry 3). -/
theorem cntBits_le_payloadBits (d : Nat) : Config.cntBits d ≤ Config.payloadBits d := by
  unfold Config.payloadBits Config.payloadBytes
  omega

/-- A payload has room for the answer of a pixel source (log entry 3). -/
theorem le_payloadBits {n : Nat} (h : n ≤ 33) (d : Nat) : n ≤ Config.payloadBits d := by
  unfold Config.payloadBits Config.payloadBytes
  omega

theorem decode_stepWord_regt (code : BitVec 4) (payload : BitVec (Config.payloadBits d)) :
    decode (stepWord 0 code payload) = if payload >>> Config.cntBits d != 0 then .error .strayBits
      else .ok (decodeRegt (code.getLsbD 3) (code.setWidth 3) (payload.setWidth (Config.cntBits d))) := by
  simp only [decode, stepWord_cls, stepWord_code, stepWord_payload]
  rfl

/-- The word of a transaction decodes by the table of R85, `op = {we, idx}`. -/
theorem decode_regtWord (op : BitVec 4) (wdata : RegData d) :
    decode (regtWord op wdata) = .ok (decodeRegt (op.getLsbD 3) (op.setWidth 3) wdata) := by
  rw [regtWord, decode_stepWord_regt, if_neg (not_setWidth_ushiftRight wdata _),
    setWidth_setWidth_self (cntBits_le_payloadBits d)]

/-- Settles O51: the general equation, with `idx` cut out of `op`. -/
theorem transactionWordsDecode : Obligations.TransactionWordsDecode := by
  intro op wdata
  rw [decode_regtWord, BitVec.setWidth_eq_extractLsb' (by decide)]

section Write
variable (wdata : RegData d)

/-- A write of CTRL (R85, R151). -/
theorem decodeRegt_write_ctrl :
    decodeRegt true 0 wdata = if wdata.toNat < 2 ^ 1 then if bitSet (bitField wdata) then .start else .wrCtrl 0
      else .illWrReserved 0 wdata :=
  (if_neg nofun).trans <| (if_neg nofun).trans <| ite_ushiftRight wdata 1 _ _

/-- A write of MODE (R85, R152). -/
theorem decodeRegt_write_mode :
    decodeRegt true 2 wdata = if wdata.toNat < 2 ^ 1 then .wrMode (bitField wdata) else .illWrReserved 2 wdata :=
  (if_neg nofun).trans <| (if_neg nofun).trans <| ite_ushiftRight wdata 1 _ _

/-- A write of WIDTH (R85, R153). -/
theorem decodeRegt_write_width :
    decodeRegt true 3 wdata = if wdata.toNat < 2 ^ d then .wrWidth (dimField wdata) else .illWrReserved 3 wdata :=
  (if_neg nofun).trans <| (if_neg nofun).trans <| ite_ushiftRight wdata d _ _

/-- A write of HEIGHT (R85, R154). -/
theorem decodeRegt_write_height :
    decodeRegt true 4 wdata = if wdata.toNat < 2 ^ d then .wrHeight (dimField wdata) else .illWrReserved 4 wdata :=
  (if_neg nofun).trans <| (if_neg nofun).trans <| ite_ushiftRight wdata d _ _

/-- A write of a writable register with a reserved bit set (R85, R162). -/
theorem decodeRegt_write_reserved {idx : BitVec 3} (hro : readOnlyIdx idx = false) (hres : reservedSet idx wdata = true) :
    decodeRegt true idx wdata = .illWrReserved idx wdata := by
  simp [decodeRegt, hro, hres]

theorem bitField_eq_extractLsb' : bitField wdata = wdata.extractLsb' 0 1 :=
  BitVec.setWidth_eq_extractLsb' (by unfold Config.cntBits; omega)

theorem dimField_eq_extractLsb' : dimField wdata = wdata.extractLsb' 0 d :=
  BitVec.setWidth_eq_extractLsb' (by unfold Config.cntBits; omega)

end Write

/-- Settles O17: the reads and the writes the host may never make by the table's own rows, the other writes by the limit of
their register's data. -/
theorem registerTransactionTable : Obligations.RegisterTransactionTable := by
  intro wdata
  have hctrl : decodeRegt true 0 wdata =
      if wdata = 1 then .start else if wdata = 0 then .wrCtrl 0 else .illWrReserved 0 wdata := by
    by_cases h1 : wdata = 1
    · subst h1; rfl
    by_cases h0 : wdata = 0
    · subst h0; rfl
    have h0' : wdata.toNat ≠ 0 := BitVec.toNat_ne.1 h0
    have h1' : wdata.toNat ≠ 1 := BitVec.toNat_ne.1 h1
    rw [decodeRegt_write_ctrl, if_neg (by omega), if_neg h1, if_neg h0]
  refine ⟨⟨rfl, rfl, rfl, rfl, rfl, rfl, rfl, rfl⟩, hctrl, rfl, ?_, ?_, ?_, rfl, rfl, rfl⟩
  · rw [← bitField_eq_extractLsb']
    exact decodeRegt_write_mode wdata
  · rw [← dimField_eq_extractLsb']
    exact decodeRegt_write_width wdata
  · rw [← dimField_eq_extractLsb']
    exact decodeRegt_write_height wdata

end Sys2Proof.Machine
end

section
/-! Decoding what `encode` writes, format by format, and what the decoder accepts. -/

namespace Sys2Proof.Machine

open Sys2Proof.Laws

variable {d : Nat}

theorem decode_stepWord_sel (code : BitVec 4) (payload : BitVec (Config.payloadBits d)) :
    decode (stepWord 1 code payload) = decodeSelWord code payload := by
  simp only [decode, stepWord_cls, stepWord_code, stepWord_payload]
  rfl

theorem decode_stepWord_reset (payload : BitVec (Config.payloadBits d)) :
    decode (stepWord 2 1 payload) = decodeField 0 payload fun _ => .reset := by
  simp only [decode, stepWord_cls, stepWord_code, stepWord_payload]
  rfl

theorem decode_stepWord_func (code : BitVec 4) (payload : BitVec (Config.payloadBits d)) :
    decode (stepWord 3 code payload) = decodeFunc code payload := by
  simp only [decode, stepWord_cls, stepWord_code, stepWord_payload]
  rfl

/-- An operand that a payload carries is read back. -/
theorem decodeField_setWidth {n : Nat} (hn : n ≤ 33) (v : BitVec n) (f : BitVec n → Instr d) :
    decodeField n (v.setWidth _) f = .ok (f v) := by
  rw [decodeField, if_neg (not_setWidth_ushiftRight v _), setWidth_setWidth_self (le_payloadBits hn d)]

/-- An operation without operands has the payload 0. -/
theorem decodeField_zero (i : Instr d) : decodeField 0 0 (fun _ => i) = .ok i :=
  if_neg (by simp)

/-- The sample in the packed word of a sample is that sample. -/
theorem sampleOf_sampleBits (p : Sample) : sampleOf (sampleBits p) = p := by
  obtain ⟨r, g, b, a⟩ := p
  have hr : (a ++ b ++ g ++ r).extractLsb' 0 8 = r := BitVec.extractLsb'_append_eq_right
  have hg : (a ++ b ++ g ++ r).extractLsb' 8 8 = g :=
    (BitVec.extractLsb'_append_eq_of_le (by decide)).trans BitVec.extractLsb'_append_eq_right
  have hb : (a ++ b ++ g ++ r).extractLsb' 16 8 = b :=
    (BitVec.extractLsb'_append_eq_of_le (by decide)).trans <|
      (BitVec.extractLsb'_append_eq_of_le (by decide)).trans BitVec.extractLsb'_append_eq_right
  have ha : (a ++ b ++ g ++ r).extractLsb' 24 8 = a :=
    (BitVec.extractLsb'_append_eq_of_le (by decide)).trans <|
      (BitVec.extractLsb'_append_eq_of_le (by decide)).trans BitVec.extractLsb'_append_eq_left
  exact (Sample.mk.injEq ..).mpr ⟨hr, hg, hb, ha⟩

/-- A sample that a payload carries is read back. -/
theorem decodeField_sampleBits (p : Sample) (f : Sample → Instr d) :
    decodeField 32 ((sampleBits p).setWidth _) (fun v => f (sampleOf v)) = .ok (f p) := by
  rw [decodeField_setWidth (by decide), sampleOf_sampleBits]

/-- The three fields that a payload carries for PK565 are read back. -/
theorem decodeField_pk565 (r5 : BitVec 5) (g6 : BitVec 6) (b5 : BitVec 5) :
    decodeField (d := d) 16 ((r5 ++ g6 ++ b5 : BitVec (5 + 6 + 5)).setWidth _)
      (fun v => .pk565 (v.extractLsb' 11 5) (v.extractLsb' 5 6) (v.extractLsb' 0 5)) = .ok (.pk565 r5 g6 b5) := by
  have hr : (r5 ++ g6 ++ b5).extractLsb' 11 5 = r5 :=
    (BitVec.extractLsb'_append_eq_of_le (by decide)).trans BitVec.extractLsb'_append_eq_left
  have hg : (r5 ++ g6 ++ b5).extractLsb' 5 6 = g6 :=
    (BitVec.extractLsb'_append_eq_of_le (by decide)).trans BitVec.extractLsb'_append_eq_right
  have hb : (r5 ++ g6 ++ b5).extractLsb' 0 5 = b5 := BitVec.extractLsb'_append_eq_right
  rw [decodeField_setWidth (by decide), hr, hg, hb]

/-- The answer in the payload of a FETCH word is read back: bit 32 tells a given sample from the image's. -/
theorem decodeAnswer_answerBits (answer : Option Sample) :
    decodeAnswer (d := d) (answerBits answer) = .ok answer := by
  cases answer with
  | none => simp [decodeAnswer, answerBits]
  | some p =>
    have hstray : ¬(answerBits (d := d) (some p) >>> 33 != 0) = true :=
      not_setWidth_ushiftRight (1#1 ++ sampleBits p : BitVec (1 + 32)) _
    have hgiven : (answerBits (d := d) (some p)).getLsbD 32 = true := by
      have hwide := le_payloadBits (Nat.le_refl 33) d
      rw [answerBits, BitVec.getLsbD_setWidth, BitVec.getLsbD_append, decide_eq_true (by omega)]
      rfl
    have hlow : (answerBits (d := d) (some p)).setWidth 32 = sampleBits p :=
      (BitVec.setWidth_setWidth_of_le _ (le_payloadBits (by decide) d)).trans BitVec.setWidth_append_eq_right
    rw [decodeAnswer, if_neg hstray, if_pos hgiven, hlow, sampleOf_sampleBits]

theorem setWidth_cntBits_self {n : Nat} (hn : n ≤ d + 2) (v : BitVec n) :
    (v.setWidth (Config.cntBits d)).setWidth n = v :=
  setWidth_setWidth_self (by unfold Config.cntBits; omega) v

/-- Both values of START are legal data of CTRL (R151). -/
theorem decodeRegt_write_ctrl_setWidth (a : BitVec 1) :
    decodeRegt (d := d) true 0 (a.setWidth _) = if bitSet a then .start else .wrCtrl 0 := by
  rw [decodeRegt_write_ctrl, if_pos (toNat_setWidth_lt a _), bitField, setWidth_cntBits_self (by omega)]

theorem decodeRegt_write_mode_setWidth (a : BitVec 1) : decodeRegt (d := d) true 2 (a.setWidth _) = .wrMode a := by
  rw [decodeRegt_write_mode, if_pos (toNat_setWidth_lt a _), bitField, setWidth_cntBits_self (by omega)]

theorem decodeRegt_write_width_setWidth (w : Dim d) : decodeRegt true 3 (w.setWidth _) = .wrWidth w := by
  rw [decodeRegt_write_width, if_pos (toNat_setWidth_lt w _), dimField, setWidth_cntBits_self (by omega)]

theorem decodeRegt_write_height_setWidth (h : Dim d) : decodeRegt true 4 (h.setWidth _) = .wrHeight h := by
  rw [decodeRegt_write_height, if_pos (toNat_setWidth_lt h _), dimField, setWidth_cntBits_self (by omega)]

/-- Every well-formed operation decodes from its own word, by the class of the word: a function's operands and a pixel source's
answer are read back from the payload, a transaction by the row of R85 for its `op`. -/
theorem decode_encode {i : Instr d} (h : WellFormed i = true) : decode (encode i) = .ok i := by
  cases i with
  | qr5 r => exact (decode_stepWord_func 0 _).trans (decodeField_setWidth (by decide) r _)
  | qg6 g => exact (decode_stepWord_func 1 _).trans (decodeField_setWidth (by decide) g _)
  | qb5 b => exact (decode_stepWord_func 2 _).trans (decodeField_setWidth (by decide) b _)
  | pk565 r5 g6 b5 => exact (decode_stepWord_func 3 _).trans (decodeField_pk565 r5 g6 b5)
  | split px => exact (decode_stepWord_func 4 _).trans (decodeField_setWidth (by decide) px _)
  | packRgb p => exact (decode_stepWord_func 5 _).trans (decodeField_sampleBits p .packRgb)
  | packRgba p => exact (decode_stepWord_func 6 _).trans (decodeField_sampleBits p .packRgba)
  | next => exact (decode_stepWord_func 7 _).trans (decodeField_zero _)
  | start =>
    have hone : (1 : RegData d) = (1#1).setWidth _ := by simp [Config.cntBits]
    rw [encode, hone, decode_regtWord]
    exact congrArg Except.ok (decodeRegt_write_ctrl_setWidth 1)
  | wrCtrl s =>
    obtain rfl : s = 0 := by simpa [WellFormed] using h
    exact (decode_regtWord 0x8 _).trans (congrArg Except.ok (decodeRegt_write_ctrl_setWidth 0))
  | wrMode a => exact (decode_regtWord 0xA _).trans (congrArg Except.ok (decodeRegt_write_mode_setWidth a))
  | wrWidth w => exact (decode_regtWord 0xB _).trans (congrArg Except.ok (decodeRegt_write_width_setWidth w))
  | wrHeight v => exact (decode_regtWord 0xC _).trans (congrArg Except.ok (decodeRegt_write_height_setWidth v))
  | rdCtrl => exact decode_regtWord 0x0 0
  | rdStatus => exact decode_regtWord 0x1 0
  | rdMode => exact decode_regtWord 0x2 0
  | rdWidth => exact decode_regtWord 0x3 0
  | rdHeight => exact decode_regtWord 0x4 0
  | rdCount => exact decode_regtWord 0x5 0
  | rdErr => exact decode_regtWord 0x6 0
  | illRd => exact decode_regtWord 0x7 0
  | illWrStatus wdata => exact decode_regtWord 0x9 wdata
  | illWrCount wdata => exact decode_regtWord 0xD wdata
  | illWrErr wdata => exact decode_regtWord 0xE wdata
  | illWrUnmapped wdata => exact decode_regtWord 0xF wdata
  | illWrReserved idx wdata =>
    obtain ⟨hro, hres⟩ : readOnlyIdx idx = false ∧ reservedSet idx wdata = true := by simpa [WellFormed] using h
    have hwe : (1#1 ++ idx).getLsbD 3 = true := by rw [BitVec.getLsbD_append]; rfl
    rw [encode, decode_regtWord, hwe, BitVec.setWidth_append_eq_right, decodeRegt_write_reserved wdata hro hres]
  | fetch answer =>
    exact (decode_stepWord_sel 0x4 _).trans (congrArg (Except.map Instr.fetch) (decodeAnswer_answerBits answer))
  | emit => exact (decode_stepWord_sel 0x6 _).trans (decodeField_zero _)
  | idle => exact (decode_stepWord_sel 0x0 _).trans (decodeField_zero _)
  | unreachable => exact (decode_stepWord_sel 0x2 _).trans (decodeField_zero _)
  | reset => exact (decode_stepWord_reset _).trans (decodeField_zero _)

/-- Settles O49: the round trip at the default width. -/
theorem decodeAfterEncode : Obligations.DecodeAfterEncode :=
  fun _ => decode_encode

/-- What a field's decoder accepts is the operation of some operand. -/
theorem wellFormed_of_decodeField {n : Nat} {payload : BitVec (Config.payloadBits d)} {f : BitVec n → Instr d} {i : Instr d}
    (hf : ∀ v, WellFormed (f v) = true) (h : decodeField n payload f = .ok i) : WellFormed i = true := by
  unfold decodeField at h
  split at h
  · cases h
  · cases h; exact hf _

/-- Every row of the transaction table is well-formed: ILL.WR by a reserved bit comes after both of its conditions, and WR.CTRL
only with START = 0 (R85). -/
theorem wellFormed_decodeRegt (we : Bool) (idx : BitVec 3) (wdata : RegData d) :
    WellFormed (decodeRegt we idx wdata) = true := by
  cases we with
  | false => rcases idx_cases idx with rfl | rfl | rfl | rfl | rfl | rfl | rfl | rfl <;> rfl
  | true =>
    unfold decodeRegt
    rw [if_neg nofun]
    split
    · split <;> rfl
    · next hro =>
      split
      · next hres => simp [WellFormed, hro, hres]
      · rcases writable_idx hro with rfl | rfl | rfl | rfl
        · show WellFormed (if bitSet (bitField wdata) then .start else .wrCtrl 0) = true
          split <;> rfl
        · rfl
        · rfl
        · rfl

theorem wellFormed_of_decodeSelWord {code : BitVec 4} {payload : BitVec (Config.payloadBits d)} {i : Instr d}
    (h : decodeSelWord code payload = .ok i) : WellFormed i = true := by
  unfold decodeSelWord at h
  split at h
  · cases h
  · split at h
    · cases hans : decodeAnswer payload with
      | error e => rw [hans] at h; cases h
      | ok answer => rw [hans] at h; cases h; rfl
    · refine wellFormed_of_decodeField (fun _ => ?_) h
      unfold decodeSel
      split <;> rfl

theorem wellFormed_of_decodeFunc {code : BitVec 4} {payload : BitVec (Config.payloadBits d)} {i : Instr d}
    (h : decodeFunc code payload = .ok i) : WellFormed i = true := by
  unfold decodeFunc at h
  split at h
  case h_9 => cases h
  all_goals exact wellFormed_of_decodeField (fun _ => rfl) h

/-- What the decoder accepts is well-formed, class by class. -/
theorem wellFormed_of_decode {w : StepWord d} {i : Instr d} (h : decode w = .ok i) : WellFormed i = true := by
  unfold decode at h
  split at h
  · split at h
    · cases h
    · cases h; exact wellFormed_decodeRegt ..
  · exact wellFormed_of_decodeSelWord h
  · split at h
    · exact wellFormed_of_decodeField (fun _ => rfl) h
    · cases h
  · exact wellFormed_of_decodeFunc h
  · cases h

/-- Settles O50: what holds of the decoder at every width, at the default. -/
theorem decodeGivesWellFormed : Obligations.DecodeGivesWellFormed :=
  fun _ _ => wellFormed_of_decode

/-- Settles O53: the decoder evaluates each word. -/
theorem handWrittenWordsDecode : Obligations.HandWrittenWordsDecode := by
  simp only [Obligations.HandWrittenWordsDecode, List.forall_mem_cons]
  exact ⟨rfl, rfl, rfl, rfl, rfl, rfl, rfl, rfl, rfl, rfl, rfl, List.forall_mem_nil _⟩

end Sys2Proof.Machine
end

section
/-! The packed pixel as numbers and bit by bit, what it remembers of a sample, and the packer's rows on their own
(40_pixel_pack.md). -/

namespace Sys2Proof.Machine

/-- `floor(r / 8)` (R111). -/
theorem qr5_toNat (r : Byte) : (qr5 r).toNat = r.toNat / 8 := by
  rw [qr5_eq_extractLsb', BitVec.extractLsb'_toNat, Nat.shiftRight_eq_div_pow]
  have := r.isLt
  omega

/-- `floor(g / 4)` (R112). -/
theorem qg6_toNat (g : Byte) : (qg6 g).toNat = g.toNat / 4 := by
  rw [qg6_eq_extractLsb', BitVec.extractLsb'_toNat, Nat.shiftRight_eq_div_pow]
  have := g.isLt
  omega

/-- `floor(b / 8)` (R113). -/
theorem qb5_toNat (b : Byte) : (qb5 b).toNat = b.toNat / 8 :=
  qr5_toNat b

/-- PK565 as a sum: no field reaches into another (R114). -/
theorem pk565_toNat (r5 : BitVec 5) (g6 : BitVec 6) (b5 : BitVec 5) :
    (pk565 r5 g6 b5).toNat = r5.toNat * 2048 + g6.toNat * 32 + b5.toNat := by
  rw [pk565_eq_append, BitVec.toNat_append, BitVec.toNat_append, ← Nat.shiftLeft_add_eq_or_of_lt b5.isLt,
    ← Nat.shiftLeft_add_eq_or_of_lt g6.isLt, Nat.shiftLeft_eq, Nat.shiftLeft_eq]
  omega

/-- The packed pixel as a sum of its quantized channels (R81). -/
theorem pix16_toNat (p : Sample) :
    (pix16 p).toNat = p.r.toNat / 8 * 2048 + p.g.toNat / 4 * 32 + p.b.toNat / 8 := by
  rw [pix16, pk565_toNat, qr5_toNat, qg6_toNat, qb5_toNat]

/-- The three fields of the packed pixel, read back (R81). -/
theorem pix16_fields (p : Sample) :
    (pix16 p).toNat / 2048 = p.r.toNat / 8 ∧
    (pix16 p).toNat / 32 % 64 = p.g.toNat / 4 ∧
    (pix16 p).toNat % 32 = p.b.toNat / 8 := by
  have hg := p.g.isLt
  have hb := p.b.isLt
  rw [pix16_toNat]
  omega

/-- Which bit of which channel each bit of the packed pixel is (R81). -/
theorem pix16_getLsbD (p : Sample) (i : Nat) :
    (pix16 p).getLsbD i =
      if i < 5 then p.b.getLsbD (3 + i) else if i < 11 then p.g.getLsbD (2 + (i - 5)) else p.r.getLsbD (3 + (i - 11)) := by
  rw [pix16_eq_append, BitVec.getLsbD_append, BitVec.getLsbD_append]
  grind

/-- Two samples have one packed pixel exactly when their kept bits agree. -/
theorem pix16_eq_iff {p q : Sample} : pix16 p = pix16 q ↔
    p.r.toNat / 8 = q.r.toNat / 8 ∧ p.g.toNat / 4 = q.g.toNat / 4 ∧ p.b.toNat / 8 = q.b.toNat / 8 := by
  constructor
  · intro h
    obtain ⟨hpr, hpg, hpb⟩ := pix16_fields p
    obtain ⟨hqr, hqg, hqb⟩ := pix16_fields q
    rw [h] at hpr hpg hpb
    exact ⟨hpr.symm.trans hqr, hpg.symm.trans hqg, hpb.symm.trans hqb⟩
  · rintro ⟨hr, hg, hb⟩
    apply BitVec.eq_of_toNat_eq
    rw [pix16_toNat, pix16_toNat, hr, hg, hb]

/-- SPLIT loses nothing: the two bytes are the pixel (R115). -/
theorem highByte_append_lowByte (px : BitVec 16) : (highByte px ++ lowByte px : BitVec (8 + 8)) = px := by
  rw [highByte_eq_extractLsb', lowByte_eq_extractLsb']
  exact (BitVec.extractLsb'_append_extractLsb'_eq_extractLsb' rfl).trans BitVec.extractLsb'_eq_self

/-- The colour record holds exactly the packed pixel (R116). -/
theorem packRgb_eq_iff {p q : Sample} : packRgb p = packRgb q ↔ pix16 p = pix16 q := by
  constructor
  · intro h
    simp only [packRgb, List.cons.injEq] at h
    obtain ⟨hhigh, hlow, -⟩ := h
    rw [← highByte_append_lowByte (pix16 p), hhigh, hlow, highByte_append_lowByte]
  · intro h
    rw [packRgb, h, packRgb]

/-- A sample whose packed pixel is `px`: its fields, with the low bits that the quantizers drop at 0. -/
def sampleOfPixel (px : BitVec 16) : Sample where
  r := px.extractLsb' 11 5 ++ 0#3
  g := px.extractLsb' 5 6 ++ 0#2
  b := px.extractLsb' 0 5 ++ 0#3
  a := 0

theorem pix16_sampleOfPixel (px : BitVec 16) : pix16 (sampleOfPixel px) = px := by
  apply BitVec.eq_of_getLsbD_eq
  intro i hi
  simp only [pix16_getLsbD, sampleOfPixel, BitVec.getLsbD_append, BitVec.getLsbD_extractLsb']
  grind

/-- The mask 0xF8 keeps the five high bits in their place. -/
theorem and_mask_high_five (c : Byte) : c &&& 0xF8#8 = (c.extractLsb' 3 5 ++ 0#3 : BitVec (5 + 3)) := by
  revert c
  decide

/-- The mask 0xE0 after a shift by three keeps the three bits from bit 2 up, moved to the top. -/
theorem shiftLeft_and_mask_high_three (c : Byte) :
    (c <<< 3) &&& 0xE0#8 = (c.extractLsb' 2 3 ++ 0#5 : BitVec (3 + 5)) := by
  revert c
  decide

/-- The first byte of a record by shifts and masks (R115): its two operands have no bit in common. -/
theorem highByte_pix16_eq_or (p : Sample) : highByte (pix16 p) = (p.r &&& 0xF8#8) ||| (p.g >>> 5) := by
  have hg : p.g >>> 5 = (0#5 ++ p.g.extractLsb' 5 3 : BitVec (5 + 3)) :=
    BitVec.ushiftRight_eq_extractLsb'_of_lt (by decide)
  rw [highByte_pix16, and_mask_high_five, hg, BitVec.or_append, BitVec.or_zero, BitVec.zero_or]

/-- The second byte of a record by shifts and masks (R115): its two operands have no bit in common. -/
theorem lowByte_pix16_eq_or (p : Sample) : lowByte (pix16 p) = ((p.g <<< 3) &&& 0xE0#8) ||| (p.b >>> 3) := by
  have hb : p.b >>> 3 = (0#3 ++ p.b.extractLsb' 3 5 : BitVec (3 + 5)) :=
    BitVec.ushiftRight_eq_extractLsb'_of_lt (by decide)
  rw [lowByte_pix16, shiftLeft_and_mask_high_three, hb, BitVec.or_append, BitVec.or_zero, BitVec.zero_or]

/-- Settles O5: the record holds the packed pixel, the packed pixel its three fields, and any three fields are some sample's. -/
theorem recordsForgetOnlyLowBits : Obligations.RecordsForgetOnlyLowBits :=
  ⟨fun _ _ => packRgb_eq_iff.trans pix16_eq_iff, fun _ => rfl, fun px => ⟨sampleOfPixel px, pix16_sampleOfPixel px⟩⟩

/-- Settles O6: division is monotonic, and each bit of the packed pixel is a bit of one channel. -/
theorem channelsMonotonicAndIndependent : Obligations.ChannelsMonotonicAndIndependent := by
  constructor
  · intro c c' h
    simp only [qr5_toNat, qg6_toNat, qb5_toNat]
    exact ⟨Nat.div_le_div_right h, Nat.div_le_div_right h, Nat.div_le_div_right h⟩
  · intro p v i
    simp only [pix16_getLsbD]
    refine ⟨fun hi => ?_, fun hi => ?_, fun hi => ?_, rfl⟩
    · simp only [hi, if_true]
    · obtain hi | hi := hi
      · simp only [hi, if_true]
      · simp only [Nat.not_lt.2 hi, if_false]
    · simp only [Nat.not_lt.2 hi, if_false]

/-- Settles O1: each row records its quantizer, which is the cut to the high bits, hence the quotient. -/
theorem quantizersTruncate : Obligations.QuantizersTruncate := by
  intro s c
  rw [← qr5_eq_extractLsb', ← qg6_eq_extractLsb']
  exact ⟨⟨rfl, qr5_toNat c⟩, ⟨rfl, qg6_toNat c⟩, rfl⟩

/-- Settles O2: the row records the packed fields, and the packed pixel holds the quotients. -/
theorem packerPlacesFields : Obligations.PackerPlacesFields := by
  refine ⟨fun s r5 g6 b5 => ?_, pix16_fields⟩
  rw [← pk565_eq_append]
  exact ⟨rfl, pk565_toNat r5 g6 b5⟩

/-- Settles O3: the two bytes are cuts of the pixel, and on a sample's pixel the masked channels. -/
theorem splitCutsBytes : Obligations.SplitCutsBytes := by
  simp only [Obligations.SplitCutsBytes, ← highByte_eq_extractLsb', ← lowByte_eq_extractLsb']
  exact ⟨fun _ _ => rfl, fun p => ⟨highByte_pix16_eq_or p, lowByte_pix16_eq_or p⟩⟩

end Sys2Proof.Machine
end

section
/-! What every step keeps of the scan's history: coordinates, samples and bytes in the log, and the sink's memory. -/

namespace Sys2Proof.Machine

open Sys2Proof.Safety

variable {d : Nat} {s t : State d} {i : Instr d}

/-- The events since the last accepted START or RESET, after one that is neither. -/
theorem scanLog_append_other (l : List (Event d)) {e : Event d} (hs : e ≠ .started) (hr : e ≠ .reset) :
    scanLog (l ++ [e]) = scanLog l ++ [e] := by
  rw [scanLog_append_one, if_neg (not_or.2 ⟨hs, hr⟩)]

theorem scanLog_append_started (l : List (Event d)) : scanLog (l ++ [.started]) = [] :=
  (scanLog_append_one l .started).trans (if_pos (.inl rfl))

theorem scanLog_append_reset (l : List (Event d)) : scanLog (l ++ [.reset]) = [] :=
  (scanLog_append_one l .reset).trans (if_pos (.inr rfl))

/-- While a scan runs five of the clauses say something. -/
theorem scanHistory_of_scan (hp : t.block.phase = .scan)
    (places : placesFetched (scanLog t.log) =
      (List.range (pixelsFetched t.block)).map fun p => (p % t.block.width.toNat, p / t.block.width.toNat))
    (stream : (bytesSent (scanLog t.log)).map Prod.fst ++ queue t.block =
      (samplesFetched (scanLog t.log)).flatMap (pack t.block.alpha))
    (sentCount : (bytesSent (scanLog t.log)).length = t.block.count.toNat)
    (notLast : ∀ q ∈ bytesSent (scanLog t.log), q.2 = false)
    (stored : ∀ n, n < t.block.count.toNat →
      Memory.read t.out n = ((bytesSent (scanLog t.log))[n]?).map Prod.fst) : ScanHistory t :=
  have hidle : t.block.phase ≠ .idle := by simp [hp]
  ⟨fun _ => places, fun _ => stream, fun _ => sentCount, fun _ => notLast, fun _ => stored, (absurd · hidle),
    (absurd · hidle)⟩

/-- In idle the other two do. -/
theorem scanHistory_of_idle (hp : t.block.phase = .idle)
    (completed : t.block.done = true → (bytesSent (scanLog t.log)).length = t.block.count.toNat ∧
      ∃ n, (bytesSent (scanLog t.log)).map Prod.snd = List.replicate n false ++ [true])
    (quiet : t.block.done = false → bytesSent (scanLog t.log) = []) : ScanHistory t :=
  have hscan : t.block.phase ≠ .scan := by simp [hp]
  ⟨(absurd · hscan), (absurd · hscan), (absurd · hscan), (absurd · hscan), (absurd · hscan), fun _ => completed,
    fun _ => quiet⟩

/-- The history reads the log only for the START or RESET, the FETCHes and the EMITs in it. -/
theorem scanHistory_record (h : ScanHistory s) {e : Event d} (hs : e ≠ .started) (hr : e ≠ .reset)
    (hplace : eventPlace e = none) (hsample : eventSample e = none) (hbyte : eventByte e = none) :
    ScanHistory (s.record e) := by
  have hlog : scanLog (s.record e).log = scanLog s.log ++ [e] := scanLog_append_other s.log hs hr
  have hplaces : placesFetched (scanLog (s.record e).log) = placesFetched (scanLog s.log) := by
    rw [hlog, placesFetched_append_one, hplace, Option.toList_none, List.append_nil]
  have hsamples : samplesFetched (scanLog (s.record e).log) = samplesFetched (scanLog s.log) := by
    rw [hlog, samplesFetched_append_one, hsample, Option.toList_none, List.append_nil]
  have hbytes : bytesSent (scanLog (s.record e).log) = bytesSent (scanLog s.log) := by
    rw [hlog, bytesSent_append_one, hbyte, Option.toList_none, List.append_nil]
  constructor
  · exact hplaces ▸ h.places
  · exact hbytes ▸ hsamples ▸ h.stream
  · exact hbytes ▸ h.sentCount
  · exact hbytes ▸ h.notLast
  · exact hbytes ▸ h.stored
  · exact hbytes ▸ h.completed
  · exact hbytes ▸ h.quiet

/-- The history does not speak of ERR. -/
theorem scanHistory_raise (h : ScanHistory s) (e : Cause) : ScanHistory (s.setBlock (raise e s.block)) :=
  ⟨h.places, h.stream, h.sentCount, h.notLast, h.stored, h.completed, h.quiet⟩

/-- In idle it does not speak of the configuration either. -/
theorem scanHistory_reconfigured (h : ScanHistory s) (hb : busy s.block = false) (alpha : Bool) (w v : BitVec d) :
    ScanHistory (s.setBlock { s.block with alpha := alpha, width := w, height := v }) :=
  have hp := busy_eq_false_iff.1 hb
  scanHistory_of_idle hp (h.completed hp) (h.quiet hp)

/-- An accepted START begins an empty history. -/
theorem scanHistory_started (s : State d) :
    ScanHistory ((s.record .started).setBlock
      { s.block with phase := .scan, done := false, x := 0, y := 0, nb := 0, count := 0 }) := by
  have hlog : scanLog ((s.record .started).setBlock
      { s.block with phase := .scan, done := false, x := 0, y := 0, nb := 0, count := 0 }).log = [] :=
    scanLog_append_started s.log
  apply scanHistory_of_scan rfl <;> rw [hlog]
  · simp [pixelsFetched, placesFetched]
  · simp [bytesSent, samplesFetched, queue_of_nb_zero]
  · rfl
  · nofun
  · nofun

/-- A pixel index gives its column and row back (R51). -/
theorem index_mod_div {w x : Nat} (hx : x < w) (y : Nat) : ((w * y + x) % w, (w * y + x) / w) = (x, y) := by
  rw [Nat.mul_add_mod, Nat.mod_eq_of_lt hx, Nat.mul_add_div (by omega), Nat.div_eq_of_lt hx, Nat.add_zero]

theorem position_of_pixelsFetched {b : Block d} (hx : b.x.toNat < b.width.toNat) :
    (pixelsFetched b % b.width.toNat, pixelsFetched b / b.width.toNat) = (b.x.toNat, b.y.toNat) := by
  rw [pixelsFetched, Nat.mul_comm, index_mod_div hx]

/-- FETCH appends the next coordinate of the scan order, and a sample whose record is what it queues. -/
theorem scanHistory_fetched (hi : BlockInv s.block) (h : ScanHistory s) (hf : fetchEnabled s.block = true) {p : Sample}
    (hblock : t.block = fetchBlock p s.block) (hout : t.out = s.out)
    (hlog : t.log = s.log ++ [.fetched s.block.x s.block.y p]) : ScanHistory t := by
  obtain ⟨hs, hnb⟩ := fetchEnabled_iff.1 hf
  obtain ⟨-, -, hx, -, -⟩ := hi.scanRange hs
  obtain ⟨-, -, -, hindex⟩ := fetchBlock_in_grid hi hf p
  have hevents : scanLog t.log = scanLog s.log ++ [.fetched s.block.x s.block.y p] :=
    hlog ▸ scanLog_append_other s.log nofun nofun
  have hplaces : placesFetched (scanLog t.log) = placesFetched (scanLog s.log) ++ [(s.block.x.toNat, s.block.y.toNat)] :=
    hevents ▸ placesFetched_append_one _ _
  have hsamples : samplesFetched (scanLog t.log) = samplesFetched (scanLog s.log) ++ [p] :=
    hevents ▸ samplesFetched_append_one _ _
  have hbytes : bytesSent (scanLog t.log) = bytesSent (scanLog s.log) :=
    hevents ▸ (bytesSent_append_one _ _).trans (List.append_nil _)
  apply scanHistory_of_scan (hblock ▸ hs)
  · rw [hplaces, hblock, hindex, List.range_succ, List.map_append, List.map_singleton, fetchBlock_width, ← h.places hs,
      position_of_pixelsFetched hx]
  · have hstream := h.stream hs
    rw [queue_of_nb_zero hnb, List.append_nil] at hstream
    rw [hbytes, hsamples, hblock, queue_fetchBlock, fetchBlock_alpha, List.flatMap_append, List.flatMap_singleton, hstream]
  · rw [hbytes, hblock]
    exact h.sentCount hs
  · rw [hbytes]
    exact h.notLast hs
  · rw [hbytes, hblock, hout]
    exact h.stored hs

/-- What EMIT takes off the queue is the byte it sends. -/
theorem queue_of_nextByte {b : Block d} (hi : BlockInv b) (he : emitEnabled b = true) {v : Byte}
    (hv : nextByte b = some v) : queue b = v :: queue (emitBlock b) := by
  obtain ⟨hs, hnb⟩ := emitEnabled_iff.1 he
  obtain ⟨-, -, -, -, hle⟩ := hi.scanRange hs
  obtain ⟨u, hu, hq⟩ := queue_eq_cons hnb hle
  rwa [Option.some.inj (hv.symm.trans hu)]

/-- A memory that holds a list of bytes from offset 0 holds one more after a write at its end. -/
theorem read_write_at_length {bytes : List (Byte × Bool)} {m : Memory} {v : Byte} (last : Bool)
    (h : ∀ n, n < bytes.length → Memory.read m n = (bytes[n]?).map Prod.fst) {n : Nat} (hn : n < bytes.length + 1) :
    Memory.read (Memory.write m bytes.length v) n = ((bytes ++ [(v, last)])[n]?).map Prod.fst := by
  by_cases hlast : n = bytes.length
  · rw [hlast, Memory.read_write_same, List.getElem?_concat_length, Option.map_some]
  · have hlt : n < bytes.length := by omega
    rw [Memory.read_write_other m v hlast, List.getElem?_append_left hlt, h n hlt]

section Emit
variable (hi : BlockInv s.block) (h : ScanHistory s) (he : emitEnabled s.block = true) {v : Byte}
  (hblock : t.block = emitBlock s.block) (hlog : t.log = s.log ++ [.sent v (lastByte s.block)])
include hlog

theorem scanLog_sent : scanLog t.log = scanLog s.log ++ [.sent v (lastByte s.block)] :=
  hlog ▸ scanLog_append_other s.log nofun nofun

theorem bytesSent_sent :
    bytesSent (scanLog t.log) = bytesSent (scanLog s.log) ++ [(v, lastByte s.block)] :=
  scanLog_sent hlog ▸ bytesSent_append_one _ _

include hi h he hblock

/-- The bytes sent stay as many as COUNT. -/
theorem length_bytesSent_sent : (bytesSent (scanLog t.log)).length = t.block.count.toNat := by
  rw [bytesSent_sent hlog, hblock, emitBlock_count_toNat hi he, List.length_append, h.sentCount (emitEnabled_iff.1 he).1,
    List.length_singleton]

/-- The last EMIT leaves a complete stream. -/
theorem scanHistory_sent_last (hl : lastByte s.block = true) : ScanHistory t := by
  obtain ⟨hs, -⟩ := emitEnabled_iff.1 he
  have hdone : t.block.done ≠ false := by simp [hblock, emitBlock_done, hl]
  have hmarkers : (bytesSent (scanLog s.log)).map Prod.snd = List.replicate (bytesSent (scanLog s.log)).length false :=
    List.map_eq_replicate_iff.2 (h.notLast hs)
  refine scanHistory_of_idle (by simp [hblock, emitBlock_phase, hl])
    (fun _ => ⟨length_bytesSent_sent hi h he hblock hlog, (bytesSent (scanLog s.log)).length, ?_⟩) (absurd · hdone)
  rw [bytesSent_sent hlog, List.map_append, hmarkers, List.map_singleton, hl]

/-- Any other EMIT moves a byte from the queue to the bytes sent. -/
theorem scanHistory_sent_not_last (hv : nextByte s.block = some v)
    (hout : t.out = Memory.write s.out s.block.count.toNat v) (hl : ¬lastByte s.block = true) : ScanHistory t := by
  obtain ⟨hs, -⟩ := emitEnabled_iff.1 he
  have hbytes := bytesSent_sent hlog
  have hsent := h.sentCount hs
  apply scanHistory_of_scan (by simp [hblock, emitBlock_phase, hl, hs])
  · rw [scanLog_sent hlog, hblock]
    simpa [eventPlace, pixelsFetched] using h.places hs
  · have hstream := h.stream hs
    rw [queue_of_nextByte hi he hv] at hstream
    rw [hbytes, scanLog_sent hlog, hblock]
    simpa [eventSample] using hstream
  · exact length_bytesSent_sent hi h he hblock hlog
  · rw [hbytes]
    simpa [hl, or_imp, forall_and] using h.notLast hs
  · intro n hn
    rw [hblock, emitBlock_count_toNat hi he] at hn
    rw [hbytes, hout, ← hsent]
    exact read_write_at_length _ (hsent ▸ h.stored hs) (hsent ▸ hn)

end Emit

/-- Every operation keeps the history: FETCH and EMIT extend it, an accepted START and RESET begin a new one, and the other
operations write nothing that it reads. -/
theorem scanHistory_of_effect (hi : BlockInv s.block) (h : ScanHistory s) (he : Effect s i t) : ScanHistory t := by
  cases he with
  | quiet => exact h
  | computed _ r => exact scanHistory_record h nofun nofun rfl rfl rfl
  | read _ idx => exact scanHistory_record h nofun nofun rfl rfl rfl
  | illegalRead =>
    exact scanHistory_raise (s := s.record (.returned 7 0)) (scanHistory_record h nofun nofun rfl rfl rfl) .ill
  | dropped _ e => exact scanHistory_raise h e
  | mode a hb => exact scanHistory_reconfigured h hb (bitSet a) s.block.width s.block.height
  | width w hb => exact scanHistory_reconfigured h hb s.block.alpha w s.block.height
  | height v hb => exact scanHistory_reconfigured h hb s.block.alpha s.block.width v
  | started => exact scanHistory_started s
  | fetched _ _ _ hf => exact scanHistory_fetched hi h hf rfl rfl rfl
  | sent _ hm hv =>
    by_cases hl : lastByte s.block = true
    · exact scanHistory_sent_last hi h hm rfl rfl hl
    · exact scanHistory_sent_not_last hi h hm rfl rfl hv rfl hl
  | reset => exact scanHistory_of_idle rfl nofun fun _ => congrArg bytesSent (scanLog_append_reset s.log)

theorem scanHistory_setPending (h : ScanHistory s) (rest : List (StepWord d)) : ScanHistory (s.setPending rest) :=
  ⟨h.places, h.stream, h.sentCount, h.notLast, h.stored, h.completed, h.quiet⟩

theorem scanHistory_stepAt (hi : Inv s) (h : ScanHistory s) (hstep : stepAt s = .next t) : ScanHistory t :=
  have hkept := stepAt_keeps (P := fun s => BlockInv s.block ∧ ScanHistory s)
    (fun _ rest h => ⟨h.1, scanHistory_setPending h.2 rest⟩)
    (fun _ _ _ h he => ⟨blockInv_of_effect h.1 he, scanHistory_of_effect h.1 h.2 he⟩) ⟨hi.block, h⟩ hstep
  hkept.2

/-- Settles O37: the step at every width, and the default machine as one of the widths. -/
theorem stepKeepsScanHistory : Obligations.StepKeepsScanHistory :=
  ⟨fun s _ hi h hstep => scanHistory_stepAt hi h (step_eq_stepAt s ▸ hstep), fun _ _ _ => scanHistory_stepAt⟩

end Sys2Proof.Machine
end

section
/-! The closed form of the stream (41_scan_serializer.md rule R136), and the last EMIT. -/

namespace Sys2Proof.Machine

open Sys2Proof.Safety

variable {d : Nat} {b : Block d} {s t : State d} {i : Instr d}

/-- The coordinates of a grid in scan order (R137). -/
def scanOrder (w h : Nat) : List (Nat × Nat) :=
  (List.range h).flatMap fun y => (List.range w).map fun x => (x, y)

/-- The record of the sample at a coordinate (R136). -/
def recordAt (img : Nat → Nat → Sample) (alpha : Bool) (q : Nat × Nat) : List Byte :=
  pack alpha (img q.1 q.2)

/-- `Serialize` is the records along the scan order (R136). -/
theorem serialize_eq_flatMap_scanOrder (img : Nat → Nat → Sample) (w h : Nat) (alpha : Bool) :
    serialize img w h alpha = (scanOrder w h).flatMap (recordAt img alpha) := by
  simp only [serialize, scanOrder, List.flatMap_assoc, List.flatMap_map, recordAt]

/-- The scan order counts the pixel index up (R51): row by row, in each row column by column. -/
theorem scanOrder_eq_map_range (w h : Nat) :
    scanOrder w h = (List.range (w * h)).map fun p => (p % w, p / w) := by
  induction h with
  | zero => rfl
  | succ h ih =>
    have hrow : (List.range w).map (fun x => (x, h)) = (List.range w).map ((fun p => (p % w, p / w)) ∘ (w * h + ·)) :=
      List.map_congr_left fun x hx => (index_mod_div (List.mem_range.1 hx) h).symm
    rw [scanOrder, List.range_succ, List.flatMap_append, List.flatMap_singleton, hrow, ← scanOrder, ih, Nat.mul_succ,
      List.range_add, List.map_append, List.map_map]

theorem scanOrder_length (w h : Nat) : (scanOrder w h).length = w * h := by
  rw [scanOrder_eq_map_range, List.length_map, List.length_range]

/-- The coordinate at pixel index `Y * WIDTH + X` is (X, Y). -/
theorem scanOrder_getElem?_pixelsFetched (h : BlockInv b) (hf : fetchEnabled b = true) :
    (scanOrder b.width.toNat b.height.toNat)[pixelsFetched b]? = some (b.x.toNat, b.y.toNat) := by
  obtain ⟨hs, -⟩ := fetchEnabled_iff.1 hf
  obtain ⟨-, -, hx, -, -⟩ := h.scanRange hs
  have hlt := (pixelsFetched_lt h hs (y_ne_height_of_fetchEnabled h hf)).2
  rw [scanOrder_eq_map_range, List.getElem?_map, List.getElem?_range hlt, Option.map_some, position_of_pixelsFetched hx]

/-- R138: a stream has BPP bytes for each pixel. -/
theorem serialize_length (img : Nat → Nat → Sample) (w h : Nat) (alpha : Bool) :
    (serialize img w h alpha).length = w * h * bpp alpha := by
  simp only [serialize_eq_flatMap_scanOrder, List.length_flatMap, recordAt, pack_length, List.map_const',
    List.sum_replicate_nat, scanOrder_length]

/-- Where every FETCH was answered from `img` the samples are those of the coordinates. -/
theorem samplesFetched_eq_map (img : Nat → Nat → Sample) (es : List (Event d))
    (h : ∀ x y p, Event.fetched x y p ∈ es → p = img x.toNat y.toNat) :
    samplesFetched es = (placesFetched es).map fun q => img q.1 q.2 := by
  induction es with
  | nil => rfl
  | cons e es ih =>
    have ih := ih fun x y p hp => h x y p (List.mem_cons_of_mem _ hp)
    cases e with
    | fetched x y p => exact List.cons_eq_cons.2 ⟨h x y p List.mem_cons_self, ih⟩
    | _ => exact ih

/-- R136, R137: with the last byte pending the coordinates fetched are the whole scan order, and the bytes sent and that
byte the whole stream. -/
theorem stream_of_lastByte (hi : BlockInv s.block) (h : ScanHistory s) (hs : s.block.phase = .scan)
    (hl : lastByte s.block = true) (img : Nat → Nat → Sample)
    (himg : ∀ x y p, Event.fetched x y p ∈ scanLog s.log → p = img x.toNat y.toNat) :
    placesFetched (scanLog s.log) = scanOrder s.block.width.toNat s.block.height.toNat ∧
    (bytesSent (scanLog s.log)).map Prod.fst ++ queue s.block =
      serialize img s.block.width.toNat s.block.height.toNat s.block.alpha := by
  have hplaces : placesFetched (scanLog s.log) = scanOrder s.block.width.toNat s.block.height.toNat := by
    rw [h.places hs, pixelsFetched_end hi hs (lastByte_iff.1 hl).2, scanOrder_eq_map_range]
  refine ⟨hplaces, ?_⟩
  rw [h.stream hs, samplesFetched_eq_map img _ himg, hplaces, List.flatMap_map, serialize_eq_flatMap_scanOrder]
  rfl

/-- A scan ends by RESET or by the EMIT of its last byte (R141). -/
theorem effect_ends_scan (he : Effect s i t) (hs : s.block.phase = .scan) (ht : t.block.phase = .idle) :
    i = .reset ∨ (i = .emit ∧ lastByte s.block = true ∧ ∃ v, nextByte s.block = some v ∧
      t = (s.outByte v true).setBlock (emitBlock s.block)) := by
  have hkept : ¬t.block.phase = s.block.phase := by simp [hs, ht]
  cases he with
  | sent v hm hv =>
    have hl : lastByte s.block = true :=
      Decidable.byContradiction fun hl => hkept (by simp [emitBlock_phase, hl])
    exact .inr ⟨rfl, hl, v, hv, by rw [hl]⟩
  | started => cases ht
  | reset => exact .inl rfl
  | _ => exact absurd rfl hkept

/-- The last byte empties the queue (R134). -/
theorem queue_of_lastByte (hi : BlockInv b) (hs : b.phase = .scan) (hl : lastByte b = true) {v : Byte}
    (hv : nextByte b = some v) : queue b = [v] := by
  obtain ⟨hnb, -⟩ := lastByte_iff.1 hl
  have he : emitEnabled b = true := emitEnabled_iff.2 ⟨hs, by simp [hnb]⟩
  rw [queue_of_nextByte hi he hv, queue_of_nb_zero (by rw [emitBlock_nb, hnb]; rfl)]

/-- R138: the last byte brings COUNT to WIDTH * HEIGHT * BPP. -/
theorem emitBlock_count_of_lastByte (hi : BlockInv b) (hs : b.phase = .scan) (hl : lastByte b = true) :
    (emitBlock b).count.toNat = b.width.toNat * b.height.toNat * bpp b.alpha := by
  obtain ⟨hnb, hy⟩ := lastByte_iff.1 hl
  have he : emitEnabled b = true := emitEnabled_iff.2 ⟨hs, by simp [hnb]⟩
  have hcount := hi.scanCount hs
  rw [hnb, pixelsFetched_end hi hs hy, Nat.mul_comm] at hcount
  rw [emitBlock_count_toNat hi he, ← hcount]
  rfl

/-- Settles O39: before the last EMIT the bytes sent and the one queued are the stream; that EMIT sends it and leaves a
complete history. -/
theorem lastEmitCompletesTheStream : Obligations.LastEmitCompletesTheStream := by
  intro s t img hinv h hstep hs ht himg
  have hi := hinv.block
  have he := exec_effect hstep
  obtain ⟨hl, v, hv, rfl⟩ : lastByte s.block = true ∧ ∃ v, nextByte s.block = some v ∧
      t = (s.outByte v true).setBlock (emitBlock s.block) :=
    ((effect_ends_scan he hs ht).resolve_left nofun).2
  obtain ⟨hplaces, hstream⟩ := stream_of_lastByte hi h hs hl img himg
  have hlog : scanLog (s.log ++ [.sent v true]) = scanLog s.log ++ [.sent v true] := scanLog_append_other s.log nofun nofun
  have hdone : (emitBlock s.block).done = true := by simp [emitBlock_done, hl]
  obtain ⟨-, hmarkers⟩ := (scanHistory_of_effect hi h he).completed ht hdone
  refine ⟨?_, hdone, emitBlock_count_of_lastByte hi hs hl, ?_, hmarkers⟩
  · rw [← hstream, queue_of_lastByte hi hs hl hv, State.setBlock_log, State.outByte_log, hlog, bytesSent_append_one,
      List.map_append]
    rfl
  · rw [State.setBlock_log, State.outByte_log, hlog, placesFetched_append_one, hplaces]
    exact List.append_nil _

end Sys2Proof.Machine
end

section
/-! The block run by itself from an accepted START to the end of its scan. -/

namespace Sys2Proof.Machine

open Sys2Proof.Safety

variable {d : Nat} {b : Block d}

/-- What a scan has still to send: the bytes queued and the records of the pixels not fetched; in idle nothing. -/
def unsent (img : Nat → Nat → Sample) (b : Block d) : List Byte :=
  if b.phase = .scan then
    queue b ++ ((scanOrder b.width.toNat b.height.toNat).drop (pixelsFetched b)).flatMap (recordAt img b.alpha)
  else []

theorem unsent_scan (img : Nat → Nat → Sample) (hs : b.phase = .scan) : unsent img b =
    queue b ++ ((scanOrder b.width.toNat b.height.toNat).drop (pixelsFetched b)).flatMap (recordAt img b.alpha) :=
  if_pos hs

theorem unsent_idle (img : Nat → Nat → Sample) (hs : b.phase ≠ .scan) : unsent img b = [] :=
  if_neg hs

/-- An accepted START has the whole stream to send (R131, R136). -/
theorem unsent_startBlock (img : Nat → Nat → Sample) (h : startAccepted b = true) :
    unsent img (startBlock b) = serialize img b.width.toNat b.height.toNat b.alpha := by
  rw [startBlock_of_accepted h, unsent_scan img rfl, queue_of_nb_zero rfl, serialize_eq_flatMap_scanOrder]
  simp [pixelsFetched]

/-- At the end mark no record is left to fetch. -/
theorem unsent_of_end (img : Nat → Nat → Sample) (hi : BlockInv b) (hs : b.phase = .scan) (hy : b.y = b.height) :
    unsent img b = queue b := by
  have hall : (scanOrder b.width.toNat b.height.toNat).length = pixelsFetched b :=
    (scanOrder_length _ _).trans (pixelsFetched_end hi hs hy).symm
  rw [unsent_scan img hs, List.drop_of_length_le (Nat.le_of_eq hall), List.flatMap_nil, List.append_nil]

/-- A turn sends what it takes off the unsent bytes: FETCH moves a record to the queue, EMIT takes one byte off it. -/
theorem unsent_blockTurn (hi : BlockInv b) (img : Nat → Nat → Sample) :
    (blockTurn img b).2.map Prod.fst ++ unsent img (blockTurn img b).1 = unsent img b := by
  have ht := blockTurn_turn hi img
  generalize blockTurn img b = r at ht ⊢
  cases ht with
  | fetch hf =>
    obtain ⟨hs, hnb⟩ := fetchEnabled_iff.1 hf
    obtain ⟨-, -, -, hindex⟩ := fetchBlock_in_grid hi hf (img b.x.toNat b.y.toNat)
    obtain ⟨hlt, hplace⟩ := List.getElem?_eq_some_iff.1 (scanOrder_getElem?_pixelsFetched hi hf)
    have hs' : (fetchBlock (img b.x.toNat b.y.toNat) b).phase = .scan := hs
    rw [unsent_scan img hs, unsent_scan img hs', hindex, queue_of_nb_zero hnb, queue_fetchBlock, fetchBlock_width,
      fetchBlock_height, fetchBlock_alpha, List.drop_eq_getElem_cons hlt, hplace, List.flatMap_cons]
    rfl
  | emit he v hv hq =>
    obtain ⟨hs, -⟩ := emitEnabled_iff.1 he
    by_cases hl : lastByte b = true
    · rw [unsent_of_end img hi hs (lastByte_iff.1 hl).2, unsent_idle img (by simp [emitBlock_phase, hl]),
        queue_of_lastByte hi hs hl hv]
      rfl
    · rw [unsent_scan img hs, unsent_scan img (by simp [emitBlock_phase, hl, hs]), hq]
      simp [pixelsFetched]
  | idle => rfl

/-- COUNT counts the bytes that a turn sends (R33). -/
theorem count_blockTurn (hi : BlockInv b) (img : Nat → Nat → Sample) :
    (blockTurn img b).1.count.toNat = b.count.toNat + (blockTurn img b).2.length := by
  have ht := blockTurn_turn hi img
  generalize blockTurn img b = r at ht ⊢
  cases ht with
  | fetch => rfl
  | emit he => exact emitBlock_count_toNat hi he
  | idle => rfl

/-- What the markers sent since START say of the block: none last while the scan runs, the final one alone once it is over
(R134). -/
inductive Markers (b : Block d) : List Bool → Prop where
  | running (k : Nat) (hs : b.phase = .scan) : Markers b (List.replicate k false)
  | finished (k : Nat) (hp : b.phase = .idle) (hd : b.done = true) : Markers b (List.replicate k false ++ [true])

/-- A byte that is not the last goes before. -/
theorem Markers.cons {ms : List Bool} (h : Markers b ms) : Markers b (false :: ms) := by
  cases h with
  | running k hs => exact .running (k + 1) hs
  | finished k hp hd => exact .finished (k + 1) hp hd

theorem Markers.complete {ms : List Bool} (h : Markers b ms) (hs : b.phase ≠ .scan) :
    b.phase = .idle ∧ b.done = true ∧ ∃ k, ms = List.replicate k false ++ [true] := by
  cases h with
  | running _ hscan => exact absurd hscan hs
  | finished k hp hd => exact ⟨hp, hd, k, rfl⟩

section Run
variable (hi : BlockInv b) (img : Nat → Nat → Sample) (n : Nat)
include hi

theorem turnsLeft_blockRun : turnsLeft (blockRun img n b).1 = turnsLeft b - n := by
  induction n generalizing b with
  | zero => rfl
  | succ n ih => rw [blockRun, ih (blockInv_blockTurn hi img), turnsLeft_blockTurn hi img, Nat.sub_sub, Nat.add_comm]

theorem blockInv_blockRun : BlockInv (blockRun img n b).1 := by
  induction n generalizing b with
  | zero => exact hi
  | succ n ih => exact ih (blockInv_blockTurn hi img)

/-- A run sends what it takes off the unsent bytes. -/
theorem unsent_blockRun : (blockRun img n b).2.map Prod.fst ++ unsent img (blockRun img n b).1 = unsent img b := by
  induction n generalizing b with
  | zero => rfl
  | succ n ih => rw [blockRun, List.map_append, List.append_assoc, ih (blockInv_blockTurn hi img), unsent_blockTurn hi img]

theorem count_blockRun : (blockRun img n b).1.count.toNat = b.count.toNat + (blockRun img n b).2.length := by
  induction n generalizing b with
  | zero => rfl
  | succ n ih =>
    rw [blockRun, ih (blockInv_blockTurn hi img), count_blockTurn hi img, List.length_append, Nat.add_assoc]

/-- The scan runs exactly as long as turns are left. -/
theorem phase_blockRun : (blockRun img n b).1.phase = .scan ↔ n < turnsLeft b := by
  have hleft := turnsLeft_blockRun hi img n
  constructor
  · intro hs
    have := turnsLeft_pos (blockInv_blockRun hi img n) hs
    omega
  · refine fun hn => Decidable.byContradiction fun hs => ?_
    rw [turnsLeft_idle hs] at hleft
    omega

end Run

theorem blockRun_of_idle (hs : b.phase ≠ .scan) (img : Nat → Nat → Sample) (n : Nat) : blockRun img n b = (b, []) := by
  induction n with
  | zero => rfl
  | succ n ih => rw [blockRun, blockTurn_of_idle hs, ih]; rfl

/-- Along a run the last marker is sent once, with the byte that ends the scan. -/
theorem markers_blockRun (hi : BlockInv b) (hs : b.phase = .scan) (img : Nat → Nat → Sample) (n : Nat) :
    Markers (blockRun img n b).1 ((blockRun img n b).2.map Prod.snd) := by
  induction n generalizing b with
  | zero => exact .running 0 hs
  | succ n ih =>
    have hi' := blockInv_blockTurn hi img
    rw [blockRun]
    have ht := blockTurn_turn hi img
    generalize blockTurn img b = r at ht hi' ⊢
    cases ht with
    | fetch hf => exact ih hi' hs
    | emit he v hv hq =>
      by_cases hl : lastByte b = true
      · have hp : (emitBlock b).phase = .idle := by simp [emitBlock_phase, hl]
        rw [blockRun_of_idle (by simp [hp]), hl]
        exact .finished 0 hp (by simp [emitBlock_done, hl])
      · rw [Bool.eq_false_iff.2 hl]
        exact (ih hi' (by simp [emitBlock_phase, hl, hs])).cons
    | idle h => exact absurd hs h

/-- Settles O40: as many turns are left after START as the statement says; when none is, nothing is unsent, COUNT is the
length of the stream, and the markers are those of a scan that is over. -/
theorem scanRunsToCompletion : Obligations.ScanRunsToCompletion := by
  intro d b img h n r
  have hi := blockInv_startBlock h
  have hstart := startBlock_of_accepted h
  have hn : turnsLeft (startBlock b) = n := turnsLeft_startBlock h
  have hover : r.1.phase ≠ .scan := fun hs => Nat.lt_irrefl n (hn ▸ (phase_blockRun hi img n).1 hs)
  have hstream : r.2.map Prod.fst = serialize img b.width.toNat b.height.toNat b.alpha := by
    rw [← unsent_startBlock img h, ← unsent_blockRun hi img n, unsent_idle img hover, List.append_nil]
  have hcount : r.1.count.toNat = b.width.toNat * b.height.toNat * bpp b.alpha := by
    rw [count_blockRun hi img n, ← List.length_map Prod.fst, hstream, serialize_length, hstart]
    exact Nat.zero_add _
  obtain ⟨hidle, hdone, hmarkers⟩ := (markers_blockRun hi (by rw [hstart]) img n).complete hover
  exact ⟨hidle, hdone, hcount, hstream, hmarkers, fun m hm => (phase_blockRun hi img m).2 (hn ▸ hm)⟩

end Sys2Proof.Machine
end

section
/-! The serializer's operations one by one (41_scan_serializer.md), which of them begins or ends a scan, and waiting. -/

namespace Sys2Proof.Machine

open Sys2Proof.Safety

variable {d : Nat} {b : Block d} {s t : State d} {i : Instr d}

/-- The column after a step in scan order (R133). -/
theorem nextPos_fst (w x y : BitVec d) : (nextPos w x y).1 = if x.toNat + 1 < w.toNat then x + 1 else 0 :=
  apply_ite Prod.fst _ _ _

/-- The row after a step in scan order (R133). -/
theorem nextPos_snd (w x y : BitVec d) : (nextPos w x y).2 = if x.toNat + 1 < w.toNat then y else y + 1 :=
  apply_ite Prod.snd _ _ _

/-- Settles O11: the two components of NEXT, and its step inside a grid that has one row more. -/
theorem nextIsScanOrderSuccessor : Obligations.NextIsScanOrderSuccessor := by
  refine ⟨fun s => ?_, fun d w x y hx hy => ?_⟩
  · rw [← nextPos_fst s.block.width s.block.x s.block.y, ← nextPos_snd s.block.width s.block.x s.block.y]
    rfl
  · have hrow : y.toNat < (BitVec.ofNat d (y.toNat + 1)).toNat := by
      rw [BitVec.toNat_ofNat, Nat.mod_eq_of_lt hy]
      exact Nat.lt_succ_self _
    obtain ⟨hcol, -, -, hindex⟩ := nextPos_in_grid hx hrow
    exact ⟨hindex, hcol⟩

/-- Settles O16: PHASE and NB decide which step is enabled; the end mark excludes FETCH, and the byte of an EMIT is the head
of the queue. -/
theorem oneBlockStepEnabled : Obligations.OneBlockStepEnabled := by
  intro d b hi
  refine ⟨fun hp => ?_, fun hs => ?_, fun hf => ?_, fun he => ?_⟩
  · simp [fetchEnabled, emitEnabled, busy_eq_false_iff.2 hp]
  · simp [fetchEnabled, emitEnabled, busy_iff.2 hs]
  · exact (pixelsFetched_lt hi (fetchEnabled_iff.1 hf).1 (y_ne_height_of_fetchEnabled hi hf)).1
  · obtain ⟨v, hv⟩ := nextByte_of_emitEnabled hi he
    exact ⟨v, hv, by rw [queue_of_nextByte hi he hv]; rfl⟩

/-- A scan begins only by an accepted START (R131). -/
theorem effect_begins_scan (he : Effect s i t) (hp : s.block.phase = .idle) (ht : t.block.phase = .scan) :
    (i = .start ∨ i = .wrCtrl 1) ∧ startAccepted s.block = true ∧ t.block.count = 0 ∧ t.block.done = false := by
  have hchanged : ¬t.block.phase = s.block.phase := by simp [hp, ht]
  cases he with
  | started _ hi ha => exact ⟨hi, ha, rfl, rfl⟩
  | sent _ hm => exact absurd (hp.symm.trans (emitEnabled_iff.1 hm).1) nofun
  | reset => cases ht
  | _ => exact absurd rfl hchanged

/-- Settles O46: the effects that change PHASE. -/
theorem onlyTheseEventsStartOrEndAScan : Obligations.OnlyTheseEventsStartOrEndAScan := by
  intro i s t h
  have he := exec_effect h
  constructor
  · intro hs ht
    obtain hr | ⟨hemit, hl, v, -, rfl⟩ := effect_ends_scan he hs ht
    · exact .inl hr
    · obtain ⟨hnb, hy⟩ := lastByte_iff.1 hl
      exact .inr ⟨hemit, hnb, hy, (emitBlock_done s.block).trans (if_pos hl)⟩
  · intro hp ht
    obtain ⟨hi, ha, hcount, hdone⟩ := effect_begins_scan he hp ht
    obtain ⟨-, hw, hh⟩ := startAccepted_iff.1 ha
    exact ⟨hi, hw, hh, hcount, hdone⟩

/-- With nothing scheduled a step changes nothing (R141; log entry 4). -/
theorem step_of_nothing_pending {s : State} (hp : s.pending = []) : step s = .next s := by
  simp only [step, hp]

/-- A machine whose step leaves a state stays there for ever. -/
theorem run_of_step_eq_self {M : Host.Core} {s : M.State} (h : M.step s = .next s) (n : Nat) : M.run n s = .next s := by
  induction n with
  | zero => rfl
  | succ n ih => rw [Host.Core.run, h]; exact ih

/-- Settles O48: the empty schedule by induction on the number of steps, the idle turn by its word. -/
theorem waitingChangesNothing : Obligations.WaitingChangesNothing :=
  ⟨fun _ hp => ⟨step_of_nothing_pending hp, run_of_step_eq_self (M := core) (step_of_nothing_pending hp)⟩,
    fun _ _ _ hp hw => step_of_decode_ok hp hw⟩

/-- A START while a scan runs (R131). -/
theorem start_of_busy (hs : s.block.phase = .scan) : s.start = s.setBlock (raise .busy s.block) := by
  have hrefused : ¬startAccepted s.block = true := fun ha => (startAccepted_iff.1 ha).1 hs
  rw [State.start, if_neg hrefused, startBlock_of_busy (busy_iff.2 hs)]

/-- A START in idle with a zero dimension (R131). -/
theorem start_of_zero_dim (hp : s.block.phase = .idle) (hz : s.block.width = 0 ∨ s.block.height = 0) :
    s.start = s.setBlock (raise .dim s.block) := by
  have hrefused : ¬startAccepted s.block = true := fun ha =>
    have hpos := (startAccepted_iff.1 ha).2
    hz.elim hpos.1 hpos.2
  rw [State.start, if_neg hrefused, startBlock, if_neg (by simp [busy_eq_false_iff.2 hp]), if_pos hz]

/-- An accepted START (R131). -/
theorem start_of_accepted (ha : startAccepted s.block = true) :
    s.start = (s.record .started).setBlock
      { s.block with phase := .scan, done := false, x := 0, y := 0, nb := 0, count := 0 } := by
  rw [State.start, if_pos ha, startBlock_of_accepted ha]

section Edge
variable {s : State} {p : PinsIn} (hs : s.block.phase = .scan) (hrst : p.rst = false) (hreg : p.regValid = true)
  (hstart : decodeRegt p.regWe p.regIdx p.regWdata = .start)
include hs hrst hreg hstart

/-- A START at the edge of a block step raises E_BUSY beside it (R64). -/
theorem edge_start_of_taken (hi : BlockInv s.block) {i : Instr} {f : Block Config.dimBits → Block Config.dimBits}
    (h : Taken p s.block i f) :
    ∃ t v, edge p s = .next t ∧ edge { p with regValid := false } s = .next v ∧
      t.block = { v.block with err := s.block.err ||| 2 } := by
  obtain ⟨u, t, v, hu, -, hv, hedge, -, hblock⟩ := h.edge_of_regValid hi hrst hreg
  have halone : Taken { p with regValid := false } s.block i f := by
    cases h with
    | fetch hf hpix => exact .fetch hf hpix
    | emit he hout => exact .emit he hout
  have hedge' := (halone.edge_of_not_regValid hi hrst rfl).1.trans hv
  rw [hstart, execAt, execStart, start_of_busy hs] at hu
  cases hu
  exact ⟨t, v, hedge, hedge', hblock⟩

/-- A START at an edge where no partner takes the block's offer raises E_BUSY and does nothing else (R64). -/
theorem edge_start_of_no_offer_taken (hpix : fetchEnabled s.block = true → p.pixValid = false)
    (hout : s.block.nb ≠ 0 → p.outReady = false) :
    ∃ t v, edge p s = .next t ∧ edge { p with regValid := false } s = .next v ∧
      t.block = { v.block with err := s.block.err ||| 2 } := by
  have hedge : edge p s = .next (s.setBlock (raise .busy s.block)) := by
    rw [edge_of_no_offer_taken hrst hpix hout, edgeReg_of_regValid hreg, hstart, execAt, execStart, start_of_busy hs]
  have hedge' : edge { p with regValid := false } s = .next s :=
    (edge_of_no_offer_taken (p := { p with regValid := false }) hrst hpix hout).trans (edgeReg_of_not_regValid rfl s)
  exact ⟨_, s, hedge, hedge', rfl⟩

/-- R64: a START at any edge of a running scan. -/
theorem edge_start_of_scan (hi : BlockInv s.block) :
    ∃ t v, edge p s = .next t ∧ edge { p with regValid := false } s = .next v ∧
      t.block = { v.block with err := s.block.err ||| 2 } := by
  by_cases hf : fetchEnabled s.block = true ∧ p.pixValid = true
  · exact edge_start_of_taken hs hrst hreg hstart hi (.fetch hf.1 hf.2)
  by_cases he : s.block.nb ≠ 0 ∧ p.outReady = true
  · exact edge_start_of_taken hs hrst hreg hstart hi (.emit (emitEnabled_of_nb_ne_zero hi he.1) he.2)
  exact edge_start_of_no_offer_taken hs hrst hreg hstart (by simpa using hf) (by simpa using he)

end Edge

/-- Settles O7: the row START and the write of CTRL are one operation with three cases; the write at an edge decodes to the
row. -/
theorem startCases : Obligations.StartCases := by
  refine ⟨fun i hi => ?_, fun s p hinv hs hrst hreg hwe hidx hdata =>
    edge_start_of_scan hs hrst hreg (by rw [hwe, hidx, hdata]; rfl) hinv⟩
  have hexec (s : State) : exec i s = .next s.start := by rcases hi with rfl | rfl <;> rfl
  simp only [hexec]
  refine ⟨fun s hs => ?_, fun s hp hz => ?_, fun s hp hw hh => ?_, fun s t u hreset hstart => ?_⟩
  · rw [start_of_busy hs]
    rfl
  · rw [start_of_zero_dim hp hz]
    rfl
  · rw [start_of_accepted (startAccepted_iff.2 ⟨by simp [hp], hw, hh⟩)]
    rfl
  · cases hreset
    cases hstart
    rw [start_of_zero_dim rfl (.inl rfl)]
    exact ⟨rfl, show 0#3 ||| 1#3 <<< 2 = 4 by decide⟩

/-- The answer a FETCH sees where the turn carries it or the image holds it (R68). -/
theorem pixAnswer_of_answered {answer : Option Sample} {p : Sample}
    (h : answer = some p ∨ (answer = none ∧ Image.read s.pix s.block.x.toNat s.block.y.toNat = some p)) :
    pixAnswer answer s = (p, s) := by
  rcases h with rfl | ⟨rfl, hread⟩
  · rfl
  · simp only [pixAnswer, hread]

/-- A record loaded into HOLD, lane by lane (R82, R83, R132). -/
theorem loadHold_pack (alpha : Bool) (p : Sample) (h : Hold) :
    loadHold (pack alpha p) h =
      { b0 := (p.r.extractLsb' 3 5 ++ p.g.extractLsb' 5 3 : BitVec (5 + 3))
        b1 := (p.g.extractLsb' 2 3 ++ p.b.extractLsb' 3 5 : BitVec (3 + 5))
        b2 := if alpha then p.a else h.b2 } := by
  rw [← highByte_pix16, ← lowByte_pix16]
  cases alpha <;> rfl

/-- Settles O8: the block after a FETCH, element by element. -/
theorem fetchLoadsRecord : Obligations.FetchLoadsRecord := by
  intro s answer p hs hnb hanswer
  have hbpp : BitVec.ofNat 2 (bpp s.block.alpha) = if s.block.alpha then 3 else 2 := by cases s.block.alpha <;> rfl
  rw [exec_eq_execAt, execAt_fetch_of_enabled answer (fetchEnabled_iff.2 ⟨hs, hnb⟩), pixAnswer_of_answered hanswer,
    ← loadHold_pack, ← hbpp, ← nextPos_fst, ← nextPos_snd]
  rfl

/-- The next byte, lane by lane (R134). -/
theorem nextByte_eq_some (hnb : b.nb ≠ 0) (hle : b.nb.toNat ≤ bpp b.alpha) :
    nextByte b = some (if b.nb.toNat = bpp b.alpha then b.hold.b0
      else if b.nb.toNat + 1 = bpp b.alpha then b.hold.b1 else b.hold.b2) := by
  have hpos := BitVec.toNat_pos_of_ne_zero hnb
  have hbpp := bpp_two_or_three b.alpha
  rw [nextByte, if_pos hle]
  by_cases h0 : b.nb.toNat = bpp b.alpha
  · rw [if_pos h0, h0, Nat.sub_self]
    rfl
  rw [if_neg h0]
  by_cases h1 : b.nb.toNat + 1 = bpp b.alpha
  · rw [if_pos h1, show bpp b.alpha - b.nb.toNat = 1 by omega]
    rfl
  · rw [if_neg h1, show bpp b.alpha - b.nb.toNat = 2 by omega]
    rfl

/-- Settles O12: the lane by the number of bytes pending, the block by EMIT's two cases. -/
theorem emitSendsNextByte : Obligations.EmitSendsNextByte := by
  intro s v last hs hnb hle hv hlast
  have hbyte : nextByte s.block = some v := hv ▸ nextByte_eq_some hnb hle
  have hblock : emitBlock s.block = { s.block with
      count := s.block.count + 1
      nb := s.block.nb - 1
      phase := if last then .idle else .scan
      done := if last then true else s.block.done } := by
    rw [← hs]
    unfold emitBlock lastByte
    rw [← hlast]
    cases last <;> rfl
  rw [exec_eq_execAt, execAt_emit_of_enabled (emitEnabled_iff.2 ⟨hs, hnb⟩) hbyte, hblock, lastByte, ← hlast]
  rfl

end Sys2Proof.Machine
end

section
/-! Register transactions (42_register_access.md): the data that is illegal, what a transaction leaves alone, the configuration
writes by PHASE, and the words the reads return. -/

namespace Sys2Proof.Machine

open Sys2Proof.Safety

variable {d : Nat} {b : Block d} {s t : State d} {i : Instr d}

/-- The rows of the transaction table are no turn of the pixel source, of the sink or of the reset pin (R85). -/
theorem decodeRegt_ne_turn (we : Bool) (idx : BitVec 3) (wdata : RegData d) :
    (∀ answer, decodeRegt we idx wdata ≠ .fetch answer) ∧ decodeRegt we idx wdata ≠ .emit ∧
      decodeRegt we idx wdata ≠ .reset := by
  unfold decodeRegt
  repeat' split
  all_goals exact ⟨nofun, nofun, nofun⟩

/-- Only FETCH reads a pixel, only EMIT sends a byte, and only these and RESET touch what the other agents hold (R20, R150). -/
theorem effect_reads_no_pixel_sends_no_byte (he : Effect s i t) (hfetch : ∀ answer, i ≠ .fetch answer) (hemit : i ≠ .emit)
    (hreset : i ≠ .reset) :
    placesFetched t.log = placesFetched s.log ∧ bytesSent t.log = bytesSent s.log ∧
      t.pix = s.pix ∧ t.out = s.out ∧ t.pending = s.pending ∧ t.free = s.free := by
  cases he with
  | fetched answer => exact absurd rfl (hfetch answer)
  | sent => exact absurd rfl hemit
  | reset => exact absurd rfl hreset
  | computed | read | illegalRead | started => simp [State.readReg, eventPlace, eventByte]
  | quiet | dropped | mode | width | height => exact ⟨rfl, rfl, rfl, rfl, rfl, rfl⟩

/-- What a read returns and notes in the log (R150). -/
theorem execAt_decodeRegt_read_log {idx : BitVec 3} {wdata : RegData d}
    (h : execAt (decodeRegt false idx wdata) s = .next t) :
    ∃ data, (regTxn false idx wdata s.block).2 = some data ∧ t.log = s.log ++ [.returned idx data] := by
  rw [execAt_decodeRegt_read] at h
  split at h <;> cases h
  · next h7 => exact ⟨0, by simp [regTxn, h7], by simp [h7]⟩
  · next h7 => exact ⟨regData idx s.block, by rw [regTxn, if_neg fun hc => h7 hc.2, if_pos rfl], rfl⟩

/-- A write returns no data (R150). -/
theorem regTxn_write_data (idx : BitVec 3) (wdata : RegData d) (b : Block d) : (regTxn true idx wdata b).2 = none := by
  rw [regTxn, if_neg nofun, if_neg nofun]
  repeat' split
  all_goals rfl

/-- Settles O18: the block by the row's equation, the data by the kind of the transaction, the rest by the effects that no
FETCH, EMIT or RESET has. -/
theorem transactionFollowsDecodeOrder : Obligations.TransactionFollowsDecodeOrder := by
  intro we idx wdata s
  obtain ⟨t, ht, hblock⟩ := execAt_decodeRegt_block we idx wdata s
  obtain ⟨hfetch, hemit, hreset⟩ := decodeRegt_ne_turn we idx wdata
  refine ⟨t, (exec_eq_execAt _ s).trans ht, hblock, ?_, ?_,
    effect_reads_no_pixel_sends_no_byte (execAt_effect ht) hfetch hemit hreset⟩
  · rintro rfl
    exact execAt_decodeRegt_read_log ht
  · rintro rfl
    exact regTxn_write_data idx wdata s.block

/-- The word of STATUS as a number: 2 * DONE + BUSY (R156). -/
theorem statusWord_eq (b : Block Config.dimBits) :
    statusWord b = (if b.done then 2 else 0) + (if b.phase = .scan then 1 else 0) := by
  unfold statusWord busy
  cases b.done <;> cases b.phase <;> rfl

/-- Settles O23: in a scan DONE is 0, in idle DONE says whether a START was accepted since RESET. -/
theorem statusReadMeaning : Obligations.StatusReadMeaning := by
  intro s
  rw [← statusWord_eq]
  refine ⟨rfl, fun hinv hist => ?_⟩
  rw [show regData 1 s.block = statusWord s.block from rfl, statusWord_eq]
  cases hp : s.block.phase with
  | scan =>
    have hdone : s.block.done = false := by simpa [hp] using hinv.block.notBusyDone
    rw [hdone, hist.busy hp]
    decide
  | idle =>
    rw [hist.idle hp]
    cases startedSinceReset s.log <;> decide

/-- The data of a write that has a reserved bit set (R150). -/
theorem reservedSet_iff {idx : BitVec 3} {wdata : RegData d} : reservedSet idx wdata = true ↔
    ((idx = 0 ∨ idx = 2) ∧ 2 ≤ wdata.toNat) ∨ ((idx = 3 ∨ idx = 4) ∧ 2 ^ d ≤ wdata.toNat) := by
  have hbit : (wdata >>> 1 != 0) = true ↔ 2 ≤ wdata.toNat := (ushiftRight_bne_zero_iff wdata 1).trans Nat.not_lt
  have hdim : (wdata >>> d != 0) = true ↔ 2 ^ d ≤ wdata.toNat := (ushiftRight_bne_zero_iff wdata d).trans Nat.not_lt
  rcases idx_cases idx with rfl | rfl | rfl | rfl | rfl | rfl | rfl | rfl
  -- CTRL and MODE (0, 2) keep one bit, WIDTH and HEIGHT (3, 4) keep DIM_BITS, the other registers have no reserved bits.
  case inl | inr.inr.inl => simpa [reservedSet] using hbit
  case inr.inr.inr.inl | inr.inr.inr.inr.inl => simpa [reservedSet] using hdim
  all_goals simp [reservedSet]

/-- The row ILL.WR, whatever makes the write illegal (R162). -/
theorem illegalWrite_eq (s : State d) : s.illegalWrite = { s with block := { s.block with err := s.block.err ||| 1 } } := rfl

/-- A write is illegal by its index or by a reserved bit of its data, and then only raises E_ILL (R162). -/
theorem exec_decodeRegt_illegal {idx : BitVec 3} {wdata : RegData}
    (h : readOnlyIdx idx = true ∨ reservedSet idx wdata = true) (s : State) :
    exec (decodeRegt true idx wdata) s = .next { s with block := { s.block with err := s.block.err ||| 1 } } := by
  rw [exec_eq_execAt, ← illegalWrite_eq]
  by_cases hro : readOnlyIdx idx = true
  · exact execAt_decodeRegt_readOnly hro wdata s
  · exact execAt_decodeRegt_reserved hro (h.resolve_left hro) s

/-- Settles O27: the five rows by their meaning, the transactions by index or reserved bit. -/
theorem illegalWritesRaiseOnlyEIll : Obligations.IllegalWritesRaiseOnlyEIll := by
  refine ⟨fun i s idx wdata hi => ?_, fun s idx wdata h => exec_decodeRegt_illegal ?_ s⟩
  · simp only [List.mem_cons, List.not_mem_nil, or_false] at hi
    rcases hi with rfl | rfl | rfl | rfl | rfl <;> rfl
  · rcases h with rfl | rfl | rfl | rfl | h
    · exact .inl rfl
    · exact .inl rfl
    · exact .inl rfl
    · exact .inl rfl
    · exact .inr (reservedSet_iff.2 h)

/-- Settles O19: data 0 and 1 are rows of their own, data above 1 has a reserved bit set, and CTRL reads as 0. -/
theorem writeCtrlCommand : Obligations.WriteCtrlCommand := by
  refine fun s wdata => ⟨?_, ?_, fun h => ?_, fun t u _ hread => ?_⟩
  · rintro rfl
    exact ⟨rfl, rfl⟩
  · rintro rfl
    exact ⟨rfl, rfl⟩
  · exact exec_decodeRegt_illegal (.inr (reservedSet_iff.2 (.inl ⟨.inl rfl, h⟩))) s
  · cases hread
    rfl

/-- A configuration write in idle (R152 to R154). -/
theorem configWrite_of_idle (hp : b.phase = .idle) (f : Block d → Block d) : configWrite f b = f b :=
  if_neg (by simp [busy_eq_false_iff.2 hp])

/-- A configuration write while a scan runs (R152 to R154). -/
theorem configWrite_of_scan (hp : b.phase = .scan) (f : Block d → Block d) : configWrite f b = raise .busy b :=
  if_pos (busy_iff.2 hp)

/-- Settles O20: MODE is a configuration register of one bit. -/
theorem writeModeConfig : Obligations.WriteModeConfig := by
  refine ⟨fun s a hp => ?_, fun s a hp => ?_, fun s wdata h =>
    exec_decodeRegt_illegal (.inr (reservedSet_iff.2 (.inl ⟨.inr rfl, h⟩))) s⟩
  · rw [exec, execWrMode, writeMode, configWrite_of_idle hp]
    rfl
  · rw [exec, execWrMode, writeMode, configWrite_of_scan hp]
    rfl

/-- Settles O21: WIDTH and HEIGHT are configuration registers of DIM_BITS bits. -/
theorem writeDimensionConfig : Obligations.WriteDimensionConfig := by
  refine ⟨fun s v hp => ?_, fun s v hp => ?_, fun s idx wdata hidx h =>
    exec_decodeRegt_illegal (.inr (reservedSet_iff.2 (.inr ⟨hidx, h⟩))) s⟩
  · rw [exec, exec, execWrWidth, execWrHeight, writeWidth, writeHeight, configWrite_of_idle hp, configWrite_of_idle hp]
    exact ⟨rfl, rfl⟩
  · rw [exec, exec, execWrWidth, execWrHeight, writeWidth, writeHeight, configWrite_of_scan hp, configWrite_of_scan hp]
    exact ⟨rfl, rfl⟩

/-- The word of MODE as a number (R157). -/
theorem modeWord_eq (b : Block Config.dimBits) : modeWord b = if b.alpha then 1 else 0 := by
  unfold modeWord
  cases b.alpha <;> rfl

/-- Settles O22: each read is `State.readReg` of its index, and the register map gives the word. -/
theorem readsReturnRegisters : Obligations.ReadsReturnRegisters := by
  intro s
  rw [← modeWord_eq]
  exact ⟨rfl, rfl, rfl, rfl, rfl⟩

/-- Settles O24: COUNT is the length of what the log says was sent in this scan. -/
theorem countReadMeaning : Obligations.CountReadMeaning := by
  refine fun s => ⟨rfl, fun hist hs => ⟨_, rfl, ?_⟩⟩
  have hcount : BitVec.ofNat 34 s.block.count.toNat = s.block.count :=
    (BitVec.ofNat_toNat 34 s.block.count).trans (BitVec.setWidth_eq _)
  rw [hist.sentCount hs, hcount]
  rfl

/-- Settles O25: a read of a mapped register is `State.readReg`, which leaves the block, so the next one sees the same. -/
theorem readsAreFreeOfSideEffects : Obligations.ReadsAreFreeOfSideEffects := by
  intro i hi s
  obtain ⟨idx, hread⟩ : ∃ idx, ∀ u : State, exec i u = .next (u.readReg idx) := by
    simp only [List.mem_cons, List.not_mem_nil, or_false] at hi
    rcases hi with rfl | rfl | rfl | rfl | rfl | rfl | rfl <;> exact ⟨_, fun _ => rfl⟩
  exact ⟨idx, regData idx s.block, s.readReg idx, hread s, rfl, hread _⟩

/-- Settles O26: the row ILL.RD, and every other read leaves the block. -/
theorem illegalReadRaises : Obligations.IllegalReadRaises := by
  refine ⟨fun _ => rfl, fun s t idx wdata h7 h => ?_⟩
  rw [exec_eq_execAt, execAt_decodeRegt_read, if_neg h7] at h
  cases h
  exact readReg_block idx s

end Sys2Proof.Machine
end

section
/-! The stream of a scan as the consumer of the array reads it (43_host_contract.md rules R174, R175). -/

namespace Sys2Proof.Machine

open Sys2Proof.Safety

variable {d : Nat} {b : Block d}

/-- The tag of a mode gives the consumer the bytes per pixel (R175). -/
theorem stride_formatOf (alpha : Bool) : stride (formatOf alpha) = bpp alpha := by
  cases alpha <;> rfl

theorem scanOrder_getElem? {w h x y : Nat} (hx : x < w) (hy : y < h) : (scanOrder w h)[y * w + x]? = some (x, y) := by
  have hrow : w * (y + 1) ≤ w * h := Nat.mul_le_mul_left w hy
  rw [Nat.mul_succ] at hrow
  rw [scanOrder_eq_map_range, List.getElem?_map, Nat.mul_comm y w, List.getElem?_range (by omega), Option.map_some,
    index_mod_div hx]

/-- In pieces of one length, side by side, the `i`th begins at `i` times that length. -/
theorem take_drop_flatMap {α : Type} {f : α → List Byte} {k : Nat} (hf : ∀ a, (f a).length = k) {l : List α} {i : Nat}
    {a : α} (ha : l[i]? = some a) : ((l.flatMap f).drop (i * k)).take k = f a := by
  induction l generalizing i with
  | nil => simp at ha
  | cons c l ih =>
    cases i with
    | zero =>
      obtain rfl : c = a := by simpa using ha
      rw [Nat.zero_mul, List.drop_zero, List.flatMap_cons, List.take_left' (hf c)]
    | succ i =>
      rw [Nat.succ_mul, Nat.add_comm, ← List.drop_drop, List.flatMap_cons, List.drop_left' (hf c), ih (by simpa using ha)]

/-- In the stream of an image the record of a pixel stands at its pixel index (R51, R136). -/
theorem take_drop_serialize (img : Nat → Nat → Sample) {w h x y : Nat} (alpha : Bool) (hx : x < w) (hy : y < h) :
    ((serialize img w h alpha).drop ((y * w + x) * bpp alpha)).take (bpp alpha) = pack alpha (img x y) := by
  rw [serialize_eq_flatMap_scanOrder, take_drop_flatMap (f := recordAt img alpha) (fun _ => pack_length alpha _)
    (scanOrder_getElem? hx hy)]
  rfl

/-- START writes no configuration, accepted or not (R131). -/
theorem startBlock_config (b : Block d) : (startBlock b).alpha = b.alpha ∧ (startBlock b).width = b.width ∧
    (startBlock b).height = b.height := by
  by_cases ha : startAccepted b = true
  · rw [startBlock_of_accepted ha]
    exact ⟨rfl, rfl, rfl⟩
  · obtain ⟨e, he⟩ := startBlock_of_not_accepted ha
    rw [he]
    exact ⟨rfl, rfl, rfl⟩

/-- A block turn writes no configuration (R67). -/
theorem blockTurn_config (hi : BlockInv b) (img : Nat → Nat → Sample) :
    (blockTurn img b).1.alpha = b.alpha ∧ (blockTurn img b).1.width = b.width ∧
      (blockTurn img b).1.height = b.height := by
  have ht := blockTurn_turn hi img
  generalize blockTurn img b = r at ht ⊢
  cases ht with
  | fetch | idle => exact ⟨rfl, rfl, rfl⟩
  | emit => exact ⟨emitBlock_alpha b, emitBlock_width b, emitBlock_height b⟩

/-- Nor does a run. -/
theorem blockRun_config (hi : BlockInv b) (img : Nat → Nat → Sample) (n : Nat) :
    (blockRun img n b).1.alpha = b.alpha ∧ (blockRun img n b).1.width = b.width ∧
      (blockRun img n b).1.height = b.height := by
  induction n generalizing b with
  | zero => exact ⟨rfl, rfl, rfl⟩
  | succ n ih =>
    obtain ⟨halpha, hwidth, hheight⟩ := blockTurn_config hi img
    have hrest := ih (blockInv_blockTurn hi img)
    rwa [halpha, hwidth, hheight] at hrest

/-- Settles O57: the run sends `Serialize` and leaves its length in COUNT, and the descriptor has the configuration, which the
run keeps. -/
theorem consumerFindsEveryRecord : Obligations.ConsumerFindsEveryRecord := by
  intro d b img ref h n r desc
  obtain ⟨-, -, hcount, hstream, -, -⟩ := scanRunsToCompletion d b img h
  obtain ⟨hstart_alpha, hstart_width, hstart_height⟩ := startBlock_config b
  obtain ⟨halpha, hwidth, hheight⟩ := blockRun_config (blockInv_startBlock h) img n
  have hw : desc.width = b.width.toNat := congrArg BitVec.toNat (hwidth.trans hstart_width)
  have hstride : stride desc.format = bpp b.alpha :=
    (stride_formatOf _).trans (congrArg bpp (halpha.trans hstart_alpha))
  have hsize : desc.dataSize = r.2.length := by
    rw [← List.length_map Prod.fst, hstream, serialize_length]
    exact hcount
  refine ⟨hsize, hw, congrArg BitVec.toNat (hheight.trans hstart_height), rfl, hstride, fun x y hx hy => ?_⟩
  rw [consumerRecord, hstream, hw, hstride, take_drop_serialize img b.alpha hx hy]

end Sys2Proof.Machine
end

section
/-! The byte array as text (43_host_contract.md rule R177). -/

namespace Sys2Proof.Machine

variable (indent newline : List Char)

theorem renderFrom_cons (i : Nat) (v : Byte) (vs : List Byte) : renderFrom indent newline i (v :: vs) =
    (if i % 16 = 0 then indent else []) ++ renderByte v ++ (if (i + 1) % 16 = 0 then newline else []) ++
      renderFrom indent newline (i + 1) vs := rfl

/-- Only the place in its line matters of an element's position. -/
theorem renderFrom_add_sixteen (i : Nat) (bytes : List Byte) :
    renderFrom indent newline (i + 16) bytes = renderFrom indent newline i bytes := by
  induction bytes generalizing i with
  | nil => rfl
  | cons v vs ih => rw [renderFrom_cons, renderFrom_cons, Nat.add_right_comm, ih, Nat.add_mod_right, Nat.add_mod_right]

/-- Elements that stay in the line of the one before them stand side by side; the 16th of the line ends it. -/
theorem renderFrom_within_line {i : Nat} {line : List Byte} (hi : i % 16 ≠ 0) (h : i % 16 + line.length ≤ 16)
    (rest : List Byte) : renderFrom indent newline i (line ++ rest) = line.flatMap renderByte ++
      (if i % 16 + line.length = 16 then newline else []) ++ renderFrom indent newline (i + line.length) rest := by
  induction line generalizing i with
  | nil =>
    have hopen : i % 16 + [].length (α := Byte) ≠ 16 := Nat.ne_of_lt (Nat.mod_lt i (by decide))
    rw [if_neg hopen]
    rfl
  | cons v vs ih =>
    rw [List.length_cons] at h ⊢
    rw [List.cons_append, renderFrom_cons, if_neg hi, List.flatMap_cons]
    by_cases hend : (i + 1) % 16 = 0
    · obtain rfl : vs = [] := List.length_eq_zero_iff.1 (by omega)
      have hfull : i % 16 + ([].length (α := Byte) + 1) = 16 := by rw [List.length_nil]; omega
      rw [if_pos hend, if_pos hfull]
      simp
    · have hnext : (i + 1) % 16 = i % 16 + 1 := by omega
      rw [if_neg hend, ih hend (by omega), hnext, Nat.add_right_comm _ 1, Nat.add_assoc i 1, Nat.add_comm 1]
      simp [Nat.add_assoc]

/-- A line from its beginning: the indentation, its elements, and a newline where there are 16. -/
theorem renderFrom_line {line : List Byte} (hne : line ≠ []) (h : line.length ≤ 16) (rest : List Byte) :
    renderFrom indent newline 0 (line ++ rest) = indent ++ line.flatMap renderByte ++
      (if line.length = 16 then newline else []) ++ renderFrom indent newline line.length rest := by
  obtain ⟨v, vs, rfl⟩ := List.exists_cons_of_ne_nil hne
  rw [List.length_cons] at h ⊢
  rw [List.cons_append, renderFrom_cons, renderFrom_within_line (i := 0 + 1) _ _ (by decide) (by omega)]
  simp [Nat.add_comm 1]

/-- Counted from the beginning of the text, position `i` has `i / 16` newlines and `(i + 15) / 16` indentations before it. -/
theorem length_renderFrom (i : Nat) (bytes : List Byte) :
    (renderFrom indent newline i bytes).length + newline.length * (i / 16) + indent.length * ((i + 15) / 16) =
      6 * bytes.length + newline.length * ((i + bytes.length) / 16) +
        indent.length * ((i + bytes.length + 15) / 16) := by
  induction bytes generalizing i with
  | nil => simp [renderFrom]
  | cons v vs ih =>
    have hindent : indent.length * ((i + 1 + 15) / 16) =
        (if i % 16 = 0 then indent else []).length + indent.length * ((i + 15) / 16) := by
      split
      · rw [show (i + 1 + 15) / 16 = (i + 15) / 16 + 1 by omega, Nat.mul_succ, Nat.add_comm]
      · rw [show (i + 1 + 15) / 16 = (i + 15) / 16 by omega, List.length_nil, Nat.zero_add]
    have hnewline : newline.length * ((i + 1) / 16) =
        (if (i + 1) % 16 = 0 then newline else []).length + newline.length * (i / 16) := by
      split
      · rw [show (i + 1) / 16 = i / 16 + 1 by omega, Nat.mul_succ, Nat.add_comm]
      · rw [show (i + 1) / 16 = i / 16 by omega, List.length_nil, Nat.zero_add]
    have hbyte : (renderByte v).length = 6 := rfl
    have ih := ih (i + 1)
    rw [Nat.add_right_comm i 1 vs.length] at ih
    rw [renderFrom_cons, List.length_cons, ← Nat.add_assoc i]
    simp only [List.length_append]
    omega

/-- The digits of R177. -/
theorem hexDigit_eq_getElem? : ∀ n < 16, ("0123456789ABCDEF".toList)[n]? = some (hexDigit n) := by decide

/-- Different nibbles have different digits. -/
theorem hexDigit_injective : ∀ n < 16, ∀ m < 16, hexDigit n = hexDigit m → n = m := by decide

theorem highNibble_lt (v : Byte) : v.toNat / 16 < 16 := by omega

theorem lowNibble_lt (v : Byte) : v.toNat % 16 < 16 := by omega

/-- An element's text names its byte: it shows both nibbles. -/
theorem renderByte_injective {v w : Byte} (h : renderByte v = renderByte w) : v = w := by
  obtain ⟨hhigh, hlow⟩ : hexDigit (v.toNat / 16) = hexDigit (w.toNat / 16) ∧
      hexDigit (v.toNat % 16) = hexDigit (w.toNat % 16) := by
    simpa [renderByte] using h
  have hhigh := hexDigit_injective _ (highNibble_lt v) _ (highNibble_lt w) hhigh
  have hlow := hexDigit_injective _ (lowNibble_lt v) _ (lowNibble_lt w) hlow
  exact BitVec.eq_of_toNat_eq (by omega)

/-- Settles O58: the first two clauses are the line from its beginning, the text's length is counted element by element, and an
element is two digits. -/
theorem renderedArrayLayout : Obligations.RenderedArrayLayout := by
  refine ⟨fun indent newline line rest h => ?_, fun indent newline line hne h => ?_, fun _ _ => rfl,
    fun v => ⟨_, _, rfl, hexDigit_eq_getElem? _ (highNibble_lt v), hexDigit_eq_getElem? _ (lowNibble_lt v)⟩,
    fun _ _ => renderByte_injective, fun indent newline bytes => ?_, fun e names bytes => ?_⟩
  · have hne : line ≠ [] := List.ne_nil_of_length_pos (by omega)
    rw [renderFrom_line _ _ hne (Nat.le_of_eq h), if_pos h, h, ← renderFrom_add_sixteen indent newline 0]
  · have hline := renderFrom_line indent newline hne (Nat.le_of_lt h) []
    rwa [if_neg (Nat.ne_of_lt h), List.append_nil, List.append_nil, renderFrom, List.append_nil] at hline
  · simpa using length_renderFrom indent newline 0 bytes
  · simp [renderArray]

end Sys2Proof.Machine
end

section
/-! The host's end of a conversion (43_host_contract.md rules R173, R180, R181): when the scan is over, and what then
happens. -/

namespace Sys2Proof.Machine

open Sys2Proof.Safety

variable {d : Nat} {s : State d}

theorem scanOver_pollDone_iff : scanOver .pollDone s = true ↔ s.block.done = true := by
  have hbit : (statusWord s.block).getLsbD 1 = s.block.done := by
    have hwidth : 1 < Config.cntBits d := by unfold Config.cntBits; omega
    rw [statusWord, BitVec.getLsbD_setWidth, decide_eq_true hwidth, BitVec.getLsbD_append]
    simp
  exact Bool.eq_iff_iff.1 hbit

theorem scanOver_lastMarker_iff : scanOver .lastMarker s = true ↔ ∃ sent v, acceptedBytes s = sent ++ [(v, true)] := by
  simp only [scanOver, beq_iff_eq, Option.map_eq_some_iff, List.getLast?_eq_some_iff, Prod.exists]
  constructor
  · rintro ⟨v, last, ⟨sent, h⟩, rfl⟩
    exact ⟨sent, v, h⟩
  · rintro ⟨sent, v, h⟩
    exact ⟨v, true, ⟨sent, h⟩, rfl⟩

/-- With DONE = 1 no scan runs (R40 item 5). -/
theorem phase_idle_of_done {b : Block d} (hi : BlockInv b) (hdone : b.done = true) : b.phase = .idle :=
  busy_eq_false_iff.1 (Bool.eq_false_iff.2 fun hb => hi.notBusyDone ⟨busy_iff.1 hb, hdone⟩)

/-- Where log and flags agree, the last marker has been sent exactly when DONE = 1. -/
theorem exists_last_marker_iff_done (hi : BlockInv s.block) (h : ScanHistory s) :
    (∃ sent v, acceptedBytes s = sent ++ [(v, true)]) ↔ s.block.done = true := by
  constructor
  · rintro ⟨sent, v, hbytes⟩
    have hmem : (v, true) ∈ acceptedBytes s := by simp [hbytes]
    cases hp : s.block.phase with
    | scan => exact absurd (h.notLast hp _ hmem) nofun
    | idle =>
      refine Decidable.byContradiction fun hdone => ?_
      rw [acceptedBytes, h.quiet hp (Bool.eq_false_iff.2 hdone)] at hmem
      cases hmem
  · intro hdone
    obtain ⟨-, n, hmarkers⟩ := h.completed (phase_idle_of_done hi hdone) hdone
    obtain ⟨sent, final, hbytes, -, hfinal⟩ := List.map_eq_append_iff.1 hmarkers
    obtain ⟨⟨v, last⟩, rfl, hlast⟩ := List.map_eq_singleton_iff.1 hfinal
    exact ⟨sent, v, by rw [acceptedBytes, hbytes, ← hlast]⟩

/-- There both ways of watching say what DONE says. -/
theorem scanOver_iff_done (hi : BlockInv s.block) (h : ScanHistory s) (how : Watch) :
    scanOver how s = true ↔ s.block.done = true := by
  cases how with
  | lastMarker => exact scanOver_lastMarker_iff.trans (exists_last_marker_iff_done hi h)
  | pollDone => exact scanOver_pollDone_iff

/-- Settles O59: the host looks at the end of the scan, at ERR, at COUNT and at the destination in this order, and the first
look that fails names the failure; the two ways of watching both say what DONE says. -/
theorem artifactIsAllOrNothing : Obligations.ArtifactIsAllOrNothing := by
  refine ⟨fun d h naming how dest s disk => ?_, fun d s => ⟨scanOver_pollDone_iff, scanOver_lastMarker_iff, ?_⟩,
    fun _ => rfl, fun _ _ _ _ _ => ⟨rfl, rfl⟩⟩
  · simp only [finishConversion]
    generalize regData 6 s.block = err, (regData 5 s.block).toNat = count
    cases hover : scanOver how s with
    | false => simp
    | true =>
      by_cases herr : err = 0#_
      · by_cases hcount : count = (bufferOf s).length
        · have hwritten (a : Artifact) (disk' : Disk) :
              artifactOf h naming s = a ∧ disk.put naming.outputLocation (artifactOf h naming s) = disk' ↔
                a = artifactOf h naming s ∧ disk' = disk.put naming.outputLocation a := by
            constructor <;> rintro ⟨rfl, rfl⟩ <;> exact ⟨rfl, rfl⟩
          cases dest <;> simp [writeArtifact, Except.map, herr, hcount, hwritten]
        · simp [herr, hcount]
      · have hfault (n : Nat) : err.toNat = n ↔ ¬n = 0 ∧ n = err.toNat := by
          constructor
          · rintro rfl
            exact ⟨BitVec.toNat_ne.1 herr, rfl⟩
          · exact fun hn => hn.2.symm
        simp [herr, hfault]
  · intro hinv hist
    exact Bool.eq_iff_iff.2 ((scanOver_iff_done hinv.block hist .lastMarker).trans scanOver_pollDone_iff.symm)

end Sys2Proof.Machine
end

section
/-! The outside of a conversion (43_host_contract.md rules R171, R173, R180): the artifacts, the decoded image, and the
shapes of the host's procedure. -/

namespace Sys2Proof.Machine

variable {d : Nat} {s t : State d}

@[simp] theorem Disk.read_put_same (disk : Disk) (location : String) (a : Artifact) :
    (disk.put location a).read location = some a := by
  induction disk with
  | nil => simp [Disk.put, Disk.read]
  | cons c rest ih =>
    by_cases hk : c.1 = location
    · simp [Disk.put, Disk.read, hk]
    · simp [Disk.put, Disk.read, hk, ih]

/-- A write at one location leaves every other (R180). -/
theorem Disk.read_put_other (disk : Disk) {location l : String} (a : Artifact) (h : l ≠ location) :
    (disk.put location a).read l = disk.read l := by
  induction disk with
  | nil => simp [Disk.put, Disk.read, h.symm]
  | cons c rest ih =>
    by_cases hk : c.1 = location
    · simp [Disk.put, Disk.read, hk, h.symm]
    · simp [Disk.put, Disk.read, hk, ih]

/-- A decoded image has a sample inside its size (R171), and none outside it. -/
theorem exists_image_read_iff (img : DecodedImage) {x y : Nat} :
    (∃ p, Image.read img.pixels x y = some p) ↔ x < img.width ∧ y < img.height := by
  obtain ⟨hheight, hwidth⟩ := img.sized
  rw [← Option.isSome_iff_exists, Image.read]
  by_cases hy : y < img.pixels.length
  · simp [hy, hwidth _ (List.getElem_mem hy), ← hheight]
  · simp [hy, ← hheight]

/-- A conversion that fails writes nothing. -/
theorem convertImage_error_disk {h : HostParams} {req : Request} {img : DecodedImage} {turns : List PartnerTurn}
    {w w' : World d} {e : HostFailure} (hfail : convertImage h req img turns w = (w', .error e)) : w'.disk = w.disk := by
  unfold convertImage at hfail
  repeat' split at hfail
  all_goals cases hfail <;> rfl

/-- A conversion that succeeds found the block idle and the image small enough, ran to a next state, and finished there. -/
theorem convertImage_ok {h : HostParams} {req : Request} {img : DecodedImage} {turns : List PartnerTurn} {w w' : World d}
    {a : Artifact} (hok : convertImage h req img turns w = (w', .ok a)) :
    busy w.machine.block = false ∧ ∃ config s, configureFor img = .ok config ∧
      runAll (config ++ turns.map PartnerTurn.instr) (loadImage img (w.machine.readReg 1)) = .next s ∧
      finishConversion h req.naming req.watch req.destination (finalReads req.watch s) w.disk = .ok (a, w'.disk) := by
  unfold convertImage at hok
  split at hok
  · cases hok
  next hbusy =>
  split at hok
  · cases hok
  next config hconfig =>
  split at hok
  next s hrun =>
    split at hok
    next hfinish => cases hok; exact ⟨Bool.eq_false_iff.2 hbusy, config, s, hconfig, hrun, hfinish⟩
    next => cases hok
  next => cases hok

theorem decodeInput_ok {input : Input} {img : DecodedImage} (h : decodeInput input = .ok img) : input = .image img := by
  cases input <;> cases h
  rfl

theorem configureFor_ok {img : DecodedImage} {config : List (Instr d)} (h : configureFor img = .ok config) :
    img.width < 2 ^ d ∧ img.height < 2 ^ d ∧
      config = pseudoConfig (BitVec.ofNat _ img.width) (BitVec.ofNat _ img.height) (BitVec.ofBool img.hasAlpha) ++
        pseudoStart := by
  unfold configureFor at h
  split at h
  next hfit => cases h; exact ⟨hfit.1, hfit.2, rfl⟩
  next => cases h

/-- What every operation of a list keeps, the run of the list keeps. -/
theorem runAll_keeps {P : State d → Prop} {is : List (Instr d)}
    (hstep : ∀ i ∈ is, ∀ s t, P s → execAt i s = .next t → P t) (hs : P s) (h : runAll is s = .next t) : P t := by
  induction is generalizing s with
  | nil => cases h; exact hs
  | cons i is ih =>
    rw [runAll] at h
    cases hu : execAt i s with
    | next u =>
      rw [hu] at h
      exact ih (fun j hj => hstep j (List.mem_cons_of_mem _ hj)) (hstep i List.mem_cons_self s u hs hu) h
    | fault f => rw [hu] at h; cases h
    | refused r => rw [hu] at h; cases h

/-- CONFIG and START on an idle block (R92, R172): the three registers are written, and the START sees them. -/
theorem runAll_config_start (hp : s.block.phase = .idle) (w v : Dim d) (a : BitVec 1) (rest : List (Instr d)) :
    runAll (pseudoConfig w v a ++ pseudoStart ++ rest) s =
      runAll rest (s.setBlock { s.block with alpha := bitSet a, width := w, height := v }).start := by
  show runAll rest (s.setBlock (writeHeight v (writeWidth w (writeMode a s.block)))).start = _
  have hmode : writeMode a s.block = { s.block with alpha := bitSet a } := configWrite_of_idle hp _
  have hwidth : writeWidth w { s.block with alpha := bitSet a } = { s.block with alpha := bitSet a, width := w } :=
    configWrite_of_idle (b := { s.block with alpha := bitSet a }) hp _
  rw [hmode, hwidth, writeHeight, configWrite_of_idle (by exact hp)]

end Sys2Proof.Machine
end

section
/-! What a host's conversion keeps while it waits (43_host_contract.md rule R173 step 3): the stream of its scan is under way,
complete, or lost for good. -/

namespace Sys2Proof.Machine

open Sys2Proof.Safety

variable {d : Nat} {s t : State d} {i : Instr d} {img : DecodedImage}

/-- A read shows no byte and no pixel. -/
theorem scanLog_readReg (idx : BitVec 3) (s : State d) :
    scanLog (s.readReg idx).log = scanLog s.log ++ [.returned idx (regData idx s.block)] :=
  scanLog_append_other s.log nofun nofun

@[simp] theorem acceptedBytes_readReg (idx : BitVec 3) (s : State d) : acceptedBytes (s.readReg idx) = acceptedBytes s := by
  rw [acceptedBytes, scanLog_readReg, bytesSent_append_one]
  exact List.append_nil _

theorem bufferOf_readReg (idx : BitVec 3) (s : State d) : bufferOf (s.readReg idx) = bufferOf s := by
  rw [bufferOf, acceptedBytes_readReg, bufferOf]

/-- The host's last look keeps what every read keeps. -/
theorem finalReads_keeps {P : State d → Prop} (hread : ∀ s idx, P s → P (s.readReg idx)) (hs : P s) (how : Watch) :
    P (finalReads how s) := by
  have hseen (u : State d) (hu : P u) : P (if scanOver how s then (u.readReg 6).readReg 5 else u) := by
    split
    · exact hread _ 5 (hread u 6 hu)
    · exact hu
  cases how with
  | lastMarker => exact hseen s hs
  | pollDone => exact hseen _ (hread s 1 hs)

theorem PartnerTurn.instr_injective {a b : PartnerTurn} (h : a.instr (d := d) = b.instr) : a = b := by
  cases a <;> cases b <;> cases h <;> rfl

/-- In idle the turns that come while the host waits do nothing, but for a poll's note in the log and RESET. -/
theorem execAt_turn_of_idle (hi : BlockInv s.block) (hp : s.block.phase = .idle) {turn : PartnerTurn}
    (hreset : turn ≠ .reset) (h : execAt turn.instr s = .next t) : t = s ∨ t = s.readReg 1 := by
  cases turn with
  | answer p =>
    have hno : ¬fetchEnabled s.block = true := fun hf => by simp [(fetchEnabled_iff.1 hf).1] at hp
    rw [PartnerTurn.instr, execAt_fetch_of_not_enabled p hno] at h
    cases h; exact .inl rfl
  | accept =>
    rw [PartnerTurn.instr, execAt_emit_of_nb_eq_zero (hi.idleNb hp)] at h
    cases h; exact .inl rfl
  | nothing => cases h; exact .inl rfl
  | poll => cases h; exact .inr rfl
  | reset => exact absurd rfl hreset

/-- The stream of the conversion is not to be had any more: the block is idle with a fault (its START was refused), or as
RESET left it. -/
structure StreamLost (s : State d) : Prop where
  inv : BlockInv s.block
  idle : s.block.phase = .idle
  reason : (∃ k, s.block.err.getLsbD k = true) ∨ (s.block.done = false ∧ acceptedBytes s = [])

theorem streamLost_readReg (h : StreamLost s) (idx : BitVec 3) : StreamLost (s.readReg idx) :=
  ⟨h.inv, h.idle, by rw [acceptedBytes_readReg]; exact h.reason⟩

theorem streamLost_of_reset (h : execAt .reset s = .next t) : StreamLost t := by
  cases h
  exact ⟨blockInv_afterReset d _, rfl, .inr ⟨rfl, congrArg bytesSent (scanLog_append_reset s.log)⟩⟩

/-- A START in idle that is not accepted leaves E_DIM (R131). -/
theorem streamLost_of_refused_start (hi : BlockInv s.block) (hp : s.block.phase = .idle)
    (ha : ¬startAccepted s.block = true) : StreamLost s.start := by
  have hz : s.block.width = 0 ∨ s.block.height = 0 := Decidable.byContradiction fun hpos =>
    ha (startAccepted_iff.2 ⟨by simp [hp], not_or.1 hpos⟩)
  rw [start_of_zero_dim hp hz]
  exact ⟨blockInv_raise hi .dim, hp, .inl ⟨2, by simp [causeCode]⟩⟩

theorem streamLost_of_turn (h : StreamLost s) {turn : PartnerTurn} (hstep : execAt turn.instr s = .next t) :
    StreamLost t := by
  by_cases hreset : turn = .reset
  · subst hreset
    exact streamLost_of_reset hstep
  · rcases execAt_turn_of_idle h.inv h.idle hreset hstep with rfl | rfl
    · exact h
    · exact streamLost_readReg h 1

/-- With the stream lost the host never finds a scan that is over and free of faults: ERR has room for its three bits. -/
theorem fault_of_over_of_streamLost (hd : 1 ≤ d) (h : StreamLost s) {how : Watch} (hover : scanOver how s = true) :
    regData 6 s.block ≠ 0 := by
  rcases h.reason with ⟨k, hk⟩ | ⟨hdone, hbytes⟩
  · have hlt := BitVec.lt_of_getLsbD hk
    have hbit : (regData 6 s.block).getLsbD k = true := by
      rw [show regData 6 s.block = s.block.err.setWidth _ from rfl, BitVec.getLsbD_setWidth, hk, Bool.and_true,
        decide_eq_true_iff, Config.cntBits]
      omega
    intro hzero
    rw [hzero] at hbit
    simp at hbit
  · cases how with
    | lastMarker =>
      obtain ⟨sent, v, hlast⟩ := scanOver_lastMarker_iff.1 hover
      simp [hbytes] at hlast
    | pollDone => exact absurd (scanOver_pollDone_iff.1 hover) (by simp [hdone])

/-- The pixel source holds the decoded image, and answered every request of the scan so far from it (R68, R171). -/
structure AnsweredFrom (img : DecodedImage) (s : State d) : Prop where
  loaded : s.pix = img.pixels
  samples : ∀ x y p, Event.fetched x y p ∈ scanLog s.log → Image.read img.pixels x.toNat y.toNat = some p

/-- The samples of the events are only looked at since the last accepted START or RESET. -/
theorem answeredFrom_append (h : AnsweredFrom img s) (hpix : t.pix = s.pix) {e : Event d} (hlog : t.log = s.log ++ [e])
    (he : ∀ x y p, e = .fetched x y p → Image.read img.pixels x.toNat y.toNat = some p) : AnsweredFrom img t := by
  refine ⟨hpix.trans h.loaded, fun x y p hmem => ?_⟩
  rw [hlog, scanLog_append_one] at hmem
  split at hmem
  · cases hmem
  · rcases List.mem_append.1 hmem with hold | hnew
    · exact h.samples x y p hold
    · exact he x y p (List.mem_singleton.1 hnew).symm

theorem answeredFrom_of_effect (h : AnsweredFrom img s) (he : Effect s i t)
    (hplace : fetchEnabled s.block = true → s.block.x.toNat < img.width ∧ s.block.y.toNat < img.height)
    (hanswer : ∀ p, i ≠ .fetch (some p)) : AnsweredFrom img t := by
  cases he with
  | quiet => exact h
  | dropped | mode | width | height => exact ⟨h.loaded, h.samples⟩
  | fetched answer p free' hf hp =>
    cases answer with
    | some q => exact absurd rfl (hanswer q)
    | none =>
      obtain ⟨q, hq⟩ := (exists_image_read_iff img).2 (hplace hf)
      have hpq : pixAnswer none s = (q, s) := by rw [pixAnswer, h.loaded, hq]
      obtain rfl : q = p := congrArg Prod.fst (hpq.symm.trans hp)
      refine answeredFrom_append h rfl rfl fun x y p hev => ?_
      cases hev
      exact hq
  | computed | read | illegalRead | started | sent | reset => exact answeredFrom_append h rfl rfl nofun

/-- The scan of the conversion is running or complete: the block has the image's configuration, and in idle COUNT and the bytes
sent are those of the whole stream, for any image that the samples agree with. -/
structure Converting (img : DecodedImage) (fromImage : Prop) (s : State d) : Prop where
  inv : BlockInv s.block
  history : ScanHistory s
  alpha : s.block.alpha = img.hasAlpha
  width : s.block.width.toNat = img.width
  height : s.block.height.toNat = img.height
  answered : fromImage → AnsweredFrom img s
  count : s.block.phase = .idle → s.block.count.toNat = img.width * img.height * bpp img.hasAlpha
  stream : s.block.phase = .idle → ∀ f : Nat → Nat → Sample,
    (∀ x y p, Event.fetched x y p ∈ scanLog s.log → p = f x.toNat y.toNat) →
    bufferOf s = serialize f img.width img.height img.hasAlpha

variable {fromImage : Prop}

theorem converting_readReg (h : Converting img fromImage s) (idx : BitVec 3) :
    Converting img fromImage (s.readReg idx) where
  inv := h.inv
  history := scanHistory_record h.history nofun nofun rfl rfl rfl
  alpha := h.alpha
  width := h.width
  height := h.height
  answered hok := answeredFrom_append (h.answered hok) rfl rfl nofun
  count := h.count
  stream hp f hf := by
    rw [bufferOf_readReg]
    refine h.stream hp f fun x y p hmem => hf x y p ?_
    rw [scanLog_readReg]
    exact List.mem_append_left _ hmem

/-- An accepted START with the image's configuration begins the conversion's scan. -/
theorem converting_of_started (ha : startAccepted s.block = true) (halpha : s.block.alpha = img.hasAlpha)
    (hwidth : s.block.width.toNat = img.width) (hheight : s.block.height.toNat = img.height) (hpix : s.pix = img.pixels) :
    Converting img fromImage s.start := by
  rw [start_of_accepted ha]
  refine ⟨startBlock_of_accepted ha ▸ blockInv_startBlock ha, scanHistory_started s, halpha, hwidth, hheight,
    fun _ => ⟨hpix, fun x y p hmem => ?_⟩, nofun, nofun⟩
  rw [State.setBlock_log, State.record_log, scanLog_append_started] at hmem
  cases hmem

/-- The EMIT that ends a scan leaves the whole stream behind (R136). -/
theorem bufferOf_of_last_emit (hi : BlockInv s.block) (h : ScanHistory s) (hs : s.block.phase = .scan)
    (hl : lastByte s.block = true) {v : Byte} (hv : nextByte s.block = some v)
    (ht : t = (s.outByte v true).setBlock (emitBlock s.block)) (f : Nat → Nat → Sample)
    (hf : ∀ x y p, Event.fetched x y p ∈ scanLog t.log → p = f x.toNat y.toNat) :
    bufferOf t = serialize f s.block.width.toNat s.block.height.toNat s.block.alpha := by
  have hlog : t.log = s.log ++ [.sent v (lastByte s.block)] := by rw [ht, hl]; rfl
  have hold : ∀ x y p, Event.fetched x y p ∈ scanLog s.log → p = f x.toNat y.toNat := fun x y p hmem =>
    hf x y p (scanLog_sent hlog ▸ List.mem_append_left _ hmem)
  rw [← (stream_of_lastByte hi h hs hl f hold).2, queue_of_lastByte hi hs hl hv, bufferOf, acceptedBytes,
    bytesSent_sent hlog, List.map_append]
  rfl

/-- A turn during the scan goes on with the stream, completes it, or is a RESET. -/
theorem converting_of_effect_in_scan (h : Converting img fromImage s) (hs : s.block.phase = .scan) (he : Effect s i t)
    (hreset : i ≠ .reset) (hanswer : fromImage → ∀ p, i ≠ .fetch (some p)) : Converting img fromImage t := by
  obtain ⟨halpha, hwidth, hheight⟩ := effect_keeps_config he hreset (.inl hs)
  have hend (hp : t.block.phase = .idle) := ((effect_ends_scan he hs hp).resolve_left hreset).2
  have hplace (hf : fetchEnabled s.block = true) : s.block.x.toNat < img.width ∧ s.block.y.toNat < img.height := by
    obtain ⟨-, -, hx, -, -⟩ := h.inv.scanRange hs
    have hy := (pixelsFetched_lt h.inv hs (y_ne_height_of_fetchEnabled h.inv hf)).1
    exact ⟨h.width ▸ hx, h.height ▸ hy⟩
  constructor
  case inv => exact blockInv_of_effect h.inv he
  case history => exact scanHistory_of_effect h.inv h.history he
  case alpha => exact halpha.trans h.alpha
  case width => exact hwidth ▸ h.width
  case height => exact hheight ▸ h.height
  case answered => exact fun hok => answeredFrom_of_effect (h.answered hok) he hplace (hanswer hok)
  case count =>
    intro hp
    obtain ⟨hl, v, -, rfl⟩ := hend hp
    rw [← h.width, ← h.height, ← h.alpha]
    exact emitBlock_count_of_lastByte h.inv hs hl
  case stream =>
    intro hp f hf
    obtain ⟨hl, v, hv, ht⟩ := hend hp
    rw [← h.width, ← h.height, ← h.alpha]
    exact bufferOf_of_last_emit h.inv h.history hs hl hv ht f hf

/-- While the host waits the conversion goes on, or its stream is lost. -/
theorem converting_or_lost_of_turn (h : Converting img fromImage s) {turn : PartnerTurn}
    (hanswer : fromImage → ∀ p, turn ≠ .answer (some p)) (hstep : execAt turn.instr s = .next t) :
    Converting img fromImage t ∨ StreamLost t := by
  by_cases hreset : turn = .reset
  · subst hreset
    exact .inr (streamLost_of_reset hstep)
  cases hp : s.block.phase with
  | scan =>
    exact .inl (converting_of_effect_in_scan h hp (execAt_effect hstep)
      (fun hi => hreset (PartnerTurn.instr_injective (b := .reset) hi))
      fun hok p hi => hanswer hok p (PartnerTurn.instr_injective (b := .answer (some p)) hi))
  | idle =>
    rcases execAt_turn_of_idle h.inv hp hreset hstep with rfl | rfl
    · exact .inl h
    · exact .inl (converting_readReg h 1)

end Sys2Proof.Machine
end

section
/-! One whole conversion (43_host_contract.md rules R171 to R175, R179, R180). -/

namespace Sys2Proof.Machine

open Sys2Proof.Safety

variable {d : Nat} {s t : State d} {img : DecodedImage} {fromImage : Prop}

theorem bitSet_ofBool (a : Bool) : bitSet (BitVec.ofBool a) = a := by
  cases a <;> rfl

/-- The host's configuration and START of an idle block begin the scan of the decoded image, or are refused. -/
theorem converting_or_lost_of_start (hi : BlockInv s.block) (hb : busy s.block = false) (hw : img.width < 2 ^ d)
    (hh : img.height < 2 ^ d) (hpix : s.pix = img.pixels) :
    let configured := s.setBlock { s.block with
      alpha := bitSet (BitVec.ofBool img.hasAlpha)
      width := BitVec.ofNat d img.width
      height := BitVec.ofNat d img.height }
    Converting img fromImage configured.start ∨ StreamLost configured.start := by
  intro configured
  by_cases ha : startAccepted configured.block = true
  · exact .inl (converting_of_started ha (bitSet_ofBool _) ((BitVec.toNat_ofNat _ _).trans (Nat.mod_eq_of_lt hw))
      ((BitVec.toNat_ofNat _ _).trans (Nat.mod_eq_of_lt hh)) hpix)
  · exact .inr (streamLost_of_refused_start (blockInv_reconfigured hi hb _ _ _) (busy_eq_false_iff.1 hb) ha)

/-- What the host finds at its last look: the scan of the decoded image, running or complete, or a lost stream. -/
theorem converting_or_lost_of_conversion {config : List (Instr d)} {turns : List PartnerTurn} (how : Watch)
    (hi : BlockInv s.block) (hb : busy s.block = false) (hconfig : configureFor img = .ok config)
    (hanswer : fromImage → ∀ p, PartnerTurn.answer (some p) ∉ turns)
    (hrun : runAll (config ++ turns.map PartnerTurn.instr) (loadImage img (s.readReg 1)) = .next t) :
    Converting img fromImage (finalReads how t) ∨ StreamLost (finalReads how t) := by
  obtain ⟨hw, hh, rfl⟩ := configureFor_ok hconfig
  rw [runAll_config_start (s := loadImage img (s.readReg 1)) (busy_eq_false_iff.1 hb)] at hrun
  have hstart := converting_or_lost_of_start (s := loadImage img (s.readReg 1)) (fromImage := fromImage) hi hb hw hh rfl
  have hwaited : Converting img fromImage t ∨ StreamLost t := by
    refine runAll_keeps (P := fun u => Converting img fromImage u ∨ StreamLost u) (fun i hmem u v hu hstep => ?_)
      hstart hrun
    obtain ⟨turn, hturn, rfl⟩ := List.mem_map.1 hmem
    rcases hu with hu | hu
    · exact converting_or_lost_of_turn hu (fun hok p heq => hanswer hok p (heq ▸ hturn)) hstep
    · exact .inr (streamLost_of_turn hu hstep)
  exact finalReads_keeps (P := fun u => Converting img fromImage u ∨ StreamLost u)
    (fun _ idx => Or.imp (converting_readReg · idx) (streamLost_readReg · idx)) hwaited how

/-- The descriptor of a conversion carries the image's size and tag (R174, R175). -/
theorem Converting.descriptorFields_eq (h : Converting img fromImage s) (tags : TagValues) (ref : String) :
    descriptorFields tags (descriptorOf ref s.block) = [.number 0, .number img.width, .number img.height, .sizeOfArray ref,
      .tag (tagNumber tags (formatOf img.hasAlpha)), .reference ref] := by
  rw [← h.width, ← h.height, ← h.alpha]
  rfl

/-- Where every pixel was answered from the decoded image the bytes are `Serialize` of it (R175). -/
theorem Converting.bufferOf_eq_serialize (h : Converting img fromImage s) (hp : s.block.phase = .idle) (hok : fromImage)
    {f : Nat → Nat → Sample}
    (hf : ∀ x y, x < img.width → y < img.height → Image.read img.pixels x y = some (f x y)) :
    bufferOf s = serialize f img.width img.height img.hasAlpha := by
  refine h.stream hp f fun x y p hmem => ?_
  have hread := (h.answered hok).samples x y p hmem
  obtain ⟨hx, hy⟩ := (exists_image_read_iff img).1 ⟨p, hread⟩
  exact Option.some.inj (hread.symm.trans (hf _ _ hx hy))

/-- A scan that is over, without a fault and with the stream not lost, is the whole scan of the image. -/
theorem converting_complete (hd : 1 ≤ d) (h : Converting img fromImage s ∨ StreamLost s) {how : Watch}
    (hover : scanOver how s = true) (herr : regData 6 s.block = 0) :
    Converting img fromImage s ∧ s.block.phase = .idle := by
  have hc := h.resolve_right fun hl => fault_of_over_of_streamLost hd hl hover herr
  exact ⟨hc, phase_idle_of_done hc.inv ((scanOver_iff_done hc.inv hc.history how).1 hover)⟩

/-- Settles O60: a failure by the shape of the procedure; a success because the host's last look found the whole scan of the
decoded image, and wrote what it found at one location. -/
theorem conversionWritesTheDecodedImage : Obligations.ConversionWritesTheDecodedImage := by
  refine ⟨fun d h req turns w w' e hfail => ?_, fun d h req turns w w' a hd hinv hok => ?_,
    fun d img s x y hx hy => (exists_image_read_iff img).2 ⟨hx, hy⟩⟩
  · rw [convert] at hfail
    split at hfail
    · cases hfail; rfl
    · exact convertImage_error_disk hfail
  · rw [convert] at hok
    split at hok
    · cases hok
    next img himg =>
    obtain ⟨hb, config, t, hconfig, hrun, hfinish⟩ := convertImage_ok hok
    have hlook := converting_or_lost_of_conversion (fromImage := ∀ p, PartnerTurn.answer (some p) ∉ turns) req.watch
      hinv.block hb hconfig id hrun
    generalize finalReads req.watch t = s at hlook hfinish
    obtain ⟨⟨hover, herr, hcount⟩, -, rfl, hdisk⟩ := ((artifactIsAllOrNothing.1 d h _ _ _ s _).1 _ _).1 hfinish
    obtain ⟨hconv, hidle⟩ := converting_complete hd hlook hover herr
    refine ⟨img, bufferOf s, decodeInput_ok himg, hdisk, hdisk ▸ Disk.read_put_same _ _ _,
      fun l hl => hdisk ▸ Disk.read_put_other _ _ hl, rfl, rfl, ?_, hconv.descriptorFields_eq h.tags _,
      fun hanswer f hf => hconv.bufferOf_eq_serialize hidle hanswer hf⟩
    rw [← hcount, stride_formatOf]
    exact hconv.count hidle

end Sys2Proof.Machine
end

section
/-! Faults (60_exceptions.md): which operation raises which cause in which block, and that a fault is one bit of ERR. -/

namespace Sys2Proof.Machine

variable {d : Nat} {b : Block d} {s t : State d} {i : Instr d}

/-- The three bits a fault can set (R191, R193). -/
theorem raise_eq_or_bit (c : Cause) (b : Block d) :
    ∃ e : BitVec 3, (e = 1 ∨ e = 2 ∨ e = 4) ∧ raise c b = { b with err := b.err ||| e } :=
  ⟨1#3 <<< causeCode c, by cases c <;> decide, rfl⟩

/-- An operation but RESET that changes ERR raises a cause, and at most returns data to the host beside (R193, R194). -/
theorem effect_of_err_changed (he : Effect s i t) (hr : i ≠ .reset) (herr : t.block.err ≠ s.block.err) :
    (∃ c, t.block = raise c s.block) ∧
    t.pix = s.pix ∧ t.out = s.out ∧ bytesSent t.log = bytesSent s.log ∧ placesFetched t.log = placesFetched s.log := by
  cases he with
  | illegalRead => exact ⟨⟨.ill, rfl⟩, rfl, rfl, by simp [eventByte], by simp [eventPlace]⟩
  | dropped _ c => exact ⟨⟨c, rfl⟩, rfl, rfl, rfl, rfl⟩
  | sent => exact absurd (emitBlock_err s.block) herr
  | reset => exact absurd rfl hr
  | _ => exact absurd rfl herr

/-- Settles O28: only a raised cause changes ERR, and a cause is one bit. -/
theorem raiseSetsOneBitOnly : Obligations.RaiseSetsOneBitOnly := by
  intro i s t h hr herr
  obtain ⟨⟨c, hblock⟩, hrest⟩ := effect_of_err_changed (exec_effect h) hr herr
  exact ⟨hblock ▸ raise_eq_or_bit c s.block, hrest⟩

/-- The cause a START raises (R131). -/
def startCause (b : Block d) : Option Cause :=
  if busy b then some .busy else if b.width = 0 ∨ b.height = 0 then some .dim else none

/-- The cause a configuration write raises (R152 to R154). -/
def configCause (b : Block d) : Option Cause :=
  if busy b then some .busy else none

/-- The cause an operation raises in a block, where it raises one (the table of R191). -/
def faultCause : Instr d → Block d → Option Cause
  | .start, b => startCause b
  | .wrCtrl a, b => if bitSet a then startCause b else none
  | .wrMode _, b | .wrWidth _, b | .wrHeight _, b => configCause b
  | .illRd, _ | .illWrStatus _, _ | .illWrCount _, _ | .illWrErr _, _ | .illWrUnmapped _, _ | .illWrReserved _ _, _ => some .ill
  | _, _ => none

/-- ERR after a cause was raised or none was (R193). -/
def errAfter (b : Block d) (c : Option Cause) : BitVec 3 :=
  c.elim b.err fun c => (raise c b).err

/-- Raising a cause sets its own bit and no other (R193). -/
theorem raised_raise (c e : Cause) (b : Block d) : raised e (raise c b) = (raised e b || c == e) := by
  cases c <;> cases e <;> simp [raised, causeCode]

/-- The bit of a cause is set after it was raised, and else keeps its value (R193). -/
theorem getLsbD_errAfter (b : Block d) (c : Option Cause) (e : Cause) :
    (errAfter b c).getLsbD (causeCode e) = (b.err.getLsbD (causeCode e) || c == some e) := by
  cases c with
  | none => exact (Bool.or_false _).symm
  | some c => exact raised_raise c e b

/-- START takes its fault on the block (R131). -/
theorem startBlock_err (b : Block d) : (startBlock b).err = errAfter b (startCause b) := by
  unfold startBlock startCause
  repeat' split
  all_goals rfl

/-- A configuration write takes its fault on the block, whatever else it writes (R152 to R154). -/
theorem configWrite_err {f : Block d → Block d} (hf : (f b).err = b.err) :
    (configWrite f b).err = errAfter b (configCause b) := by
  unfold configWrite configCause
  split
  · rfl
  · exact hf

/-- What an operation but RESET does to ERR: it takes its fault, where it has one (R191). -/
theorem execAt_err (h : execAt i s = .next t) (hr : i ≠ .reset) : t.block.err = errAfter s.block (faultCause i s.block) := by
  cases i with
  | start => cases h; rw [start_block]; exact startBlock_err _
  | wrCtrl a =>
    by_cases ha : bitSet a = true
    · rw [execAt, execWrCtrl, if_pos ha] at h
      cases h
      rw [start_block, startBlock_err, faultCause, if_pos ha]
    · rw [execAt, execWrCtrl, if_neg ha] at h
      cases h
      rw [faultCause, if_neg ha]
      rfl
  | wrMode | wrWidth | wrHeight => cases h; exact configWrite_err rfl
  | fetch answer => obtain ht | ⟨p, ht⟩ := execAt_fetch_block h <;> rw [ht] <;> rfl
  | emit =>
    obtain ht | ht := execAt_emit_block h <;> rw [ht]
    · rfl
    · exact emitBlock_err _
  | reset => exact absurd rfl hr
  | unreachable => cases h
  | _ => cases h; rfl

theorem startCause_ne_ill (b : Block d) : (startCause b == some .ill) = false := by
  unfold startCause
  repeat' split
  all_goals rfl

theorem startCause_eq_busy (b : Block d) : (startCause b == some .busy) = (b.phase == .scan) := by
  unfold startCause busy
  cases b.phase with
  | scan => rfl
  | idle => by_cases hz : b.width = 0 ∨ b.height = 0 <;> simp only [hz] <;> rfl

theorem startCause_eq_dim (b : Block d) :
    (startCause b == some .dim) = (b.phase == .idle && (b.width == 0 || b.height == 0)) := by
  unfold startCause busy
  cases b.phase with
  | scan => rfl
  | idle => by_cases hw : b.width = 0#d <;> by_cases hh : b.height = 0#d <;> simp [hw, hh]

/-- A configuration write raises E_BUSY in a scan, and no other cause (R152 to R154). -/
theorem configCause_eq (b : Block d) (e : Cause) :
    (configCause b == some e) = (e == .busy && b.phase == .scan) := by
  unfold configCause busy
  cases b.phase <;> cases e <;> rfl

/-- A write of CTRL raises what a START raises, where it writes a 1 (R151). -/
theorem faultCause_wrCtrl_eq (a : BitVec 1) (b : Block d) (e : Cause) :
    (faultCause (.wrCtrl a) b == some e) = ((startCause b == some e) && a == 1) := by
  rw [faultCause, bitSet]
  cases a == 1 with
  | true => exact (Bool.and_true _).symm
  | false => exact (Bool.and_false _).symm

/-- Settles O29: each bit of ERR is set by its own cause only, and each cause belongs to the rows of the table of R191. -/
theorem faultConditions : Obligations.FaultConditions := by
  intro i s t h hr
  have hbit (e : Cause) : t.block.err.getLsbD (causeCode e) =
      (s.block.err.getLsbD (causeCode e) || faultCause i s.block == some e) :=
    execAt_err (exec_eq_execAt i s ▸ h) hr ▸ getLsbD_errAfter s.block _ e
  refine ⟨(hbit .ill).trans (congrArg _ ?_), (hbit .busy).trans (congrArg _ ?_), (hbit .dim).trans (congrArg _ ?_)⟩
  · cases i with
    | start => exact startCause_ne_ill _
    | wrCtrl a => rw [faultCause_wrCtrl_eq, startCause_ne_ill]; rfl
    | wrMode | wrWidth | wrHeight => exact configCause_eq _ _
    | _ => rfl
  · cases i with
    | start => exact (startCause_eq_busy _).trans (Bool.and_true _).symm
    | wrCtrl a => rw [faultCause_wrCtrl_eq, startCause_eq_busy]
    | wrMode | wrWidth | wrHeight => exact (configCause_eq _ _).trans (Bool.and_true _).symm
    | _ => exact (Bool.and_false _).symm
  · cases i with
    | start => exact (startCause_eq_dim _).trans (Bool.and_true _).symm
    | wrCtrl a => rw [faultCause_wrCtrl_eq, startCause_eq_dim]
    | wrMode | wrWidth | wrHeight => exact (configCause_eq _ _).trans (Bool.and_false _).symm
    | _ => exact (Bool.and_false _).symm

end Sys2Proof.Machine
end

section
/-! RESET, the start-up sequence and a FETCH outside the image (70_reset_and_hazards.md). -/

namespace Sys2Proof.Machine

variable {d : Nat} {s t : State d}

/-- RESET ends a pixel request and takes a byte offer back (R221). -/
theorem ports_quiet_afterReset (d n : Nat) :
    pixPort (Block.afterReset d n) = none ∧ outPort (Block.afterReset d n) = none :=
  ⟨rfl, rfl⟩

/-- Settles O31: RESET by its equation; what every other operation keeps, by the effects it can have. -/
theorem resetRestoresInitialValues : Obligations.ResetRestoresInitialValues := by
  refine ⟨fun s => ?_, edgeResetAndQuiet.1, fun we idx wdata => (decodeRegt_ne_turn we idx wdata).2.2,
    fun i s t h hr => ⟨fun k hk => effect_keeps_fault_bit (exec_effect h) hr hk, fun hs ht => ?_⟩⟩
  · exact ⟨_, _, _, _, rfl, rfl, ports_quiet_afterReset _ s.free⟩
  · obtain hreset | ⟨hemit, hlast, -⟩ := effect_ends_scan (exec_effect h) hs ht
    · exact absurd hreset hr
    · exact ⟨hemit, hlast⟩

/-- The block a start-up leaves: RESET, the configuration, an accepted START (R223). -/
theorem runAll_startUp {u : State d} {w h : Dim d} (a : BitVec 1) (hw : w ≠ 0) (hh : h ≠ 0)
    (hreset : execAt .reset s = .next t) (hrun : runAll (pseudoConfig w h a ++ pseudoStart ++ []) t = .next u) :
    u.block = { t.block with alpha := bitSet a, width := w, height := h, phase := .scan, x := 0, y := 0 } := by
  cases hreset
  rw [runAll_config_start rfl, start_of_accepted (startAccepted_iff.2 ⟨by simp, hw, hh⟩)] at hrun
  cases hrun
  rfl

/-- Settles O34: the five operations are RESET and the run of CONFIG and START. -/
theorem startUpSequence : Obligations.StartUpSequence := by
  intro s s1 s2 s3 s4 s5 a w h hw hh hreset hmode hwidth hheight hstart
  have hrun : runAll (pseudoConfig w h a ++ pseudoStart ++ []) s1 = .next s5 := by
    cases hmode
    cases hwidth
    cases hheight
    cases hstart
    rfl
  have hblock := runAll_startUp a hw hh hreset hrun
  cases hreset
  rw [hblock]
  exact ⟨rfl, rfl, rfl, rfl, rfl, statusWord_eq _⟩

/-- Outside its image the pixel source answers some sample, and a free value is drawn (U4; log entry 9). -/
theorem pixAnswer_outside_image (h : Image.read s.pix s.block.x.toNat s.block.y.toNat = none) :
    ∃ p, pixAnswer none s = (p, s.draw) := by
  simp only [pixAnswer, h]
  exact ⟨_, rfl⟩

/-- Settles O9: an enabled FETCH takes what the pixel source answers, whatever it is. -/
theorem fetchOutsideImageCompletes : Obligations.FetchOutsideImageCompletes := by
  intro s hs hnb hread
  obtain ⟨p, hanswer⟩ := pixAnswer_outside_image hread
  refine ⟨p, ?_⟩
  rw [exec_eq_execAt, execAt_fetch_of_enabled none (fetchEnabled_iff.2 ⟨hs, hnb⟩), hanswer]
  rfl

end Sys2Proof.Machine
end
